-- ==== Sys2Proof/Word.lean ====
section
/-!
DEFINITION. The machine's bit-vector widths (spec/00_scope.md R7, R8) and nothing more: every helper that cuts or
joins bits stands where a later repair can reach it (Decode.lean, Machine/Operands.lean).
-/

namespace Sys2Proof

/-- A byte value of the codec: 8 bits (R7). -/
abbrev Byte := BitVec 8

/-- A 16-bit value, as ENC_ADD16 carries (R82). -/
abbrev Half := BitVec 16

/-- A register or a bus data word: 32 bits (R7). -/
abbrev Word := BitVec 32

/-- A byte offset from BASE inside the 4 KiB window: `off[11:0]` (R60, R80). -/
abbrev Offset := BitVec 12

/-- The 13-bit access word `AW`, the direction above the offset (R80). -/
abbrev AccessWord := BitVec 13

end Sys2Proof
end

