-- ==== Sys2Proof/Config.lean ====
section
/-!
DEFINITION. The implementation parameters of spec/00_scope.md R6. The fixed ones have their value; the three OPEN
ones (BASE, K, OK_CODE) are constants without a body, so that a claim holds whatever value an implementation gives
them (log entry 1).
-/

namespace Sys2Proof.Config

/-- SENTINEL, the frame opening byte: "0xD5, fixed" (R6). -/
def sentinel : Byte := 0xD5#8

/-- CRC_POLY, the reflected CRC-8 polynomial constant: 0x8C, fixed (R6). -/
def crcPoly : Byte := 0x8C#8

/-- CRC_INIT, the accumulator value after `reset()` (R6). -/
def crcInit : Byte := 0x00#8

/-- MAX_LEN, the largest length field L (R6). -/
def maxLen : Nat := 255

/-- MAX_FRAME, the largest frame in bytes, `L + 3`; it is the size of `enc_buf` (R6, 10_state.md R29). -/
def maxFrame : Nat := 258

/-- The size of `dec_body[0..254]` in bytes (10_state.md R39). -/
def bodySize : Nat := 255

/-- SEG_MAX, the largest per-axis step magnitude in one segment (R6). -/
def segMax : Nat := 65535

/-- CNT_MAX, the largest timer counter value (R6). -/
def cntMax : Nat := 65535

/-- TQ_FACTORS, the prescaler factors of bands 0..4, fixed (R6). -/
def tqFactors : List Nat := [1, 8, 64, 256, 1024]

/-- OPEN: the constant K less one. The type gives K its range `1 ≤ K ≤ 2^32 − 1` (R6). -/
opaque clockMinusOne : Fin 4294967295

/-- K, the clock ticks per minute used by the feedrate formula (R6, OPEN). -/
def clock : Nat := clockMinusOne.val + 1

/-- OPEN: OK_CODE, the numeric value of ResponseCode OK (R6). The spec's default 1 is not assumed. -/
opaque okCode : Byte

/-- OPEN: the number of the 4 KiB page where the register window stands (R6). -/
opaque basePage : Nat

/-- BASE, the bus address of offset 0x000: any 4 KiB-aligned address (R6, OPEN). -/
def base : Nat := 4096 * basePage

end Sys2Proof.Config
end

