-- ==== Sys2Proof/Syntax.lean ====
section
/-!
DEFINITION. The operations of the block and the bus access that carries one. The block fetches no instructions: "Its
operations are host bus accesses" (spec/10_state.md R20), one row of spec/opcode_table.json each. `Instr` has one
constructor per row. An operand is a field that the row's register defines (R82); bits outside every field are
reserved and ignored (R262), so they are no operand.
-/

namespace Sys2Proof

/-- The direction `dir` of a bus access (20_memory.md R60). -/
inductive Dir where
  | read
  | write
  deriving DecidableEq, Repr

/-- One host bus access, the tuple `(dir, off, size, wdata)` of 20_memory.md R60. `size` is in bytes; `wdata` has a
meaning for a write only. -/
structure Access where
  dir   : Dir
  off   : Offset
  size  : Nat
  wdata : Word
  deriving DecidableEq, Repr

/-- The causes of a bus error (60_exceptions.md R263). Code 0 is "none" and no cause; codes 9 to 15 are reserved. -/
inductive Cause where
  | size
  | align
  | unmapped
  | direction
  | sequence
  | overflow
  | notReady
  | pastEnd
  deriving DecidableEq, Repr

/-- The operations, one constructor per row of spec/opcode_table.json, in its order. -/
inductive Instr where
  /-- SYS.ID: read ID (46_system.md R250). -/
  | sysId
  /-- SYS.VERSION: read VERSION (R251). -/
  | sysVersion
  /-- SYS.CTRL: write GLB_CTRL; SYS.RESET and SYS.CLRERR are spellings of it (R252). -/
  | sysCtrl (softReset clrErr : Bool)
  /-- SYS.PARAM: read PARAM (R253). -/
  | sysParam
  /-- SYS.ERR: read GLB_ERR (R254). -/
  | sysErr
  /-- CRC.CTRL: write CRC_CTRL; CRC.RESET is a spelling of it (40_crc.md R102). -/
  | crcCtrl (reset : Bool)
  /-- CRC.UPDATE: write CRC_DATA (R101). -/
  | crcUpdate (byte : Byte)
  /-- CRC.VALUE: read CRC_VALUE (R103). -/
  | crcValue
  /-- ENC.BEGIN: start a request frame (41_encoder.md R120). -/
  | encBegin (target command : Byte)
  /-- ENC.ADD8: append one byte (R121). -/
  | encAdd8 (value : Byte)
  /-- ENC.ADD16: append two bytes, little-endian (R122). -/
  | encAdd16 (value : Half)
  /-- ENC.ADD32: append four bytes, little-endian (R123). -/
  | encAdd32 (value : Word)
  /-- ENC.FINALIZE: write length and trailer; the data word is ignored (R124). -/
  | encFinalize
  /-- ENC.STATUS: read ENC_STATUS (R127). -/
  | encStatus
  /-- ENC.FRAMELEN: read ENC_FRAME_LEN (R128). -/
  | encFramelen
  /-- ENC.CTRL: write ENC_CTRL; ENC.CLRERR and ENC.ABORT are spellings of it (R126). -/
  | encCtrl (clrErr abort : Bool)
  /-- ENC.FRAME: read word `k` of the frame window (R125). -/
  | encFrame (k : Nat)
  /-- DEC.CTRL: write DEC_CTRL; DEC.RESET and DEC.CLRERR are spellings of it (42_decoder.md R155). -/
  | decCtrl (reset clrErr : Bool)
  /-- DEC.PUSH: feed one received byte (R150). -/
  | decPush (byte : Byte)
  /-- DEC.STATUS: read DEC_STATUS (R157). -/
  | decStatus
  /-- DEC.ERRINFO: read DEC_ERRINFO (R158). -/
  | decErrinfo
  /-- DEC.BODY: read word `k` of the body window (R156). -/
  | decBody (k : Nat)
  /-- RD.CTRL: write RD_CTRL; RD.REWIND and RD.CLRERR are spellings of it (43_reader.md R185). -/
  | rdCtrl (rewind clrErr : Bool)
  /-- RD.CODE: read the response code (R180). -/
  | rdCode
  /-- RD.GET8: read the next byte (R181). -/
  | rdGet8
  /-- RD.GET16: read the next two bytes (R182). -/
  | rdGet16
  /-- RD.GET32: read the next four bytes (R183). -/
  | rdGet32
  /-- RD.STATUS: read RD_STATUS (R186). -/
  | rdStatus
  /-- TQ.SET: write TQ_TICKS (45_quantizer.md R241). -/
  | tqSet (ticks : Word)
  /-- TQ.GET: read TQ_TICKS (R242). -/
  | tqGet
  /-- TQ.RESULT: read TQ_RESULT (R243). -/
  | tqResult
  /-- MV.SETDX: write MV_DX (44_segmenter.md R207). -/
  | mvSetdx (value : Word)
  /-- MV.GETDX: read MV_DX (R208). -/
  | mvGetdx
  /-- MV.SETDY: write MV_DY (R207). -/
  | mvSetdy (value : Word)
  /-- MV.GETDY: read MV_DY (R208). -/
  | mvGetdy
  /-- MV.SETDZ: write MV_DZ (R207). -/
  | mvSetdz (value : Word)
  /-- MV.GETDZ: read MV_DZ (R208). -/
  | mvGetdz
  /-- MV.SETFEED: write MV_FEED (R207). -/
  | mvSetfeed (value : Word)
  /-- MV.GETFEED: read MV_FEED (R208). -/
  | mvGetfeed
  /-- MV.K: read the clock constant (R209). -/
  | mvK
  /-- MV.CTRL: write MV_CTRL; MV.PLAN and MV.CLRERR are spellings of it (R202). -/
  | mvCtrl (plan clrErr : Bool)
  /-- MV.STATUS: read MV_STATUS (R210). -/
  | mvStatus
  /-- MV.TICKS: read MV_TICKS (R211). -/
  | mvTicks
  /-- MV.TIMER: read MV_TIMER (R212). -/
  | mvTimer
  /-- MV.NSEG: read MV_NSEG (R213). -/
  | mvNseg
  /-- MV.SEGLEFT: read MV_SEG_LEFT (R214). -/
  | mvSegleft
  /-- MV.SEGDX: read MV_SEG_DX (R215). -/
  | mvSegdx
  /-- MV.SEGDY: read MV_SEG_DY (R215). -/
  | mvSegdy
  /-- MV.SEGDZ: read MV_SEG_DZ (R215). -/
  | mvSegdz
  /-- MV.SEGINDEX: read MV_SEG_INDEX (R216). -/
  | mvSegindex
  /-- MV.MASTER: read MV_MASTER (R217). -/
  | mvMaster
  /-- MV.NEXT: produce the next segment; the data word is ignored (R204). -/
  | mvNext
  deriving DecidableEq, Repr

end Sys2Proof
end

