-- ==== Sys2Proof/WellFormed.lean ====
section
/-!
DEFINITION. Which terms of `Instr` are operations of the block. The operand types hold every value of their field, so
the only checks left are on the word index of the two windows, `k = 0..255` (spec/10_state.md R38, R44; R81).
-/

namespace Sys2Proof

/-- The number of words of a byte window: "256 words" (10_state.md R38, R44). -/
def windowWords : Nat := 256

/-- The operation exists: a window read names a word of its window; every other operand is exact in its type. -/
def Instr.wf : Instr → Bool
  | .encFrame k => k < windowWords
  | .decBody k => k < windowWords
  | .sysId | .sysVersion | .sysCtrl _ _ | .sysParam | .sysErr => true
  | .crcCtrl _ | .crcUpdate _ | .crcValue => true
  | .encBegin _ _ | .encAdd8 _ | .encAdd16 _ | .encAdd32 _ | .encFinalize => true
  | .encStatus | .encFramelen | .encCtrl _ _ => true
  | .decCtrl _ _ | .decPush _ | .decStatus | .decErrinfo => true
  | .rdCtrl _ _ | .rdCode | .rdGet8 | .rdGet16 | .rdGet32 | .rdStatus => true
  | .tqSet _ | .tqGet | .tqResult => true
  | .mvSetdx _ | .mvGetdx | .mvSetdy _ | .mvGetdy | .mvSetdz _ | .mvGetdz => true
  | .mvSetfeed _ | .mvGetfeed | .mvK | .mvCtrl _ _ | .mvStatus | .mvTicks => true
  | .mvTimer | .mvNseg | .mvSegleft | .mvSegdx | .mvSegdy | .mvSegdz => true
  | .mvSegindex | .mvMaster | .mvNext => true

end Sys2Proof
end

