-- ==== Sys2Proof/Decode.lean ====
section
/-!
DEFINITION. From a bus access to an operation and back: the register map (spec/10_state.md R20), the generic access
checks (60_exceptions.md R261), the match/mask rows of spec/opcode_table.json (30_encoding.md R80, R83), and after
them the encoder, written from the expansions of R91.
-/

namespace Sys2Proof

/-! ## Offsets of the registers, R20's map -/

namespace Off

def id          : Offset := 0x000#12
def version     : Offset := 0x004#12
def glbCtrl     : Offset := 0x008#12
def param       : Offset := 0x00C#12
def crcCtrl     : Offset := 0x010#12
def crcData     : Offset := 0x014#12
def crcValue    : Offset := 0x018#12
def encBegin    : Offset := 0x020#12
def encAdd8     : Offset := 0x024#12
def encAdd16    : Offset := 0x028#12
def encAdd32    : Offset := 0x02C#12
def encFinalize : Offset := 0x030#12
def encStatus   : Offset := 0x034#12
def encFrameLen : Offset := 0x038#12
def encCtrl     : Offset := 0x03C#12
def decCtrl     : Offset := 0x040#12
def decData     : Offset := 0x044#12
def decStatus   : Offset := 0x048#12
def decErrinfo  : Offset := 0x04C#12
def rdCtrl      : Offset := 0x060#12
def rdCode      : Offset := 0x064#12
def rdGet8      : Offset := 0x068#12
def rdGet16     : Offset := 0x06C#12
def rdGet32     : Offset := 0x070#12
def rdStatus    : Offset := 0x074#12
def tqTicks     : Offset := 0x080#12
def tqResult    : Offset := 0x084#12
def mvDx        : Offset := 0x090#12
def mvDy        : Offset := 0x094#12
def mvDz        : Offset := 0x098#12
def mvFeed      : Offset := 0x09C#12
def mvK         : Offset := 0x0A0#12
def mvCtrl      : Offset := 0x0A4#12
def mvStatus    : Offset := 0x0A8#12
def mvTicks     : Offset := 0x0AC#12
def mvTimer     : Offset := 0x0B0#12
def mvNseg      : Offset := 0x0B4#12
def mvSegLeft   : Offset := 0x0B8#12
def mvSegDx     : Offset := 0x0BC#12
def mvSegDy     : Offset := 0x0C0#12
def mvSegDz     : Offset := 0x0C4#12
def mvSegIndex  : Offset := 0x0C8#12
def mvMaster    : Offset := 0x0CC#12
def mvNext      : Offset := 0x0D0#12
def glbErr      : Offset := 0x0F0#12
/-- The ENC_FRAME window, offsets 0x400 to 0x7FF (R38). -/
def encFrame    : Offset := 0x400#12
/-- The DEC_BODY window, offsets 0x800 to 0xBFF (R44). -/
def decBody     : Offset := 0x800#12

end Off

/-! ## The register map and the two address checks -/

/-- The access kinds of R20's table: RO, WO, RW, and RO*, "read-only with a side effect on read". -/
inductive AccessKind where
  | readOnly
  | writeOnly
  | readWrite
  | readSide
  deriving DecidableEq, Repr

/-- Whether a register of this kind takes an access in this direction (20_memory.md R66). -/
def AccessKind.allows : AccessKind → Dir → Bool
  | .readOnly, .read => true
  | .readOnly, .write => false
  | .writeOnly, .read => false
  | .writeOnly, .write => true
  | .readWrite, _ => true
  | .readSide, .read => true
  | .readSide, .write => false

/-- The single registers of R20's table: system, CRC, encoder and decoder. -/
def codecRegisters : List (Offset × AccessKind) :=
  [(Off.id, .readOnly), (Off.version, .readOnly), (Off.glbCtrl, .writeOnly), (Off.param, .readOnly),
   (Off.crcCtrl, .writeOnly), (Off.crcData, .writeOnly), (Off.crcValue, .readOnly),
   (Off.encBegin, .writeOnly), (Off.encAdd8, .writeOnly), (Off.encAdd16, .writeOnly), (Off.encAdd32, .writeOnly),
   (Off.encFinalize, .writeOnly), (Off.encStatus, .readOnly), (Off.encFrameLen, .readOnly), (Off.encCtrl, .writeOnly),
   (Off.decCtrl, .writeOnly), (Off.decData, .writeOnly), (Off.decStatus, .readOnly), (Off.decErrinfo, .readOnly)]

/-- The single registers of R20's table: reader, quantizer, planner and the error record. -/
def motionRegisters : List (Offset × AccessKind) :=
  [(Off.rdCtrl, .writeOnly), (Off.rdCode, .readOnly), (Off.rdGet8, .readSide), (Off.rdGet16, .readSide),
   (Off.rdGet32, .readSide), (Off.rdStatus, .readOnly),
   (Off.tqTicks, .readWrite), (Off.tqResult, .readOnly),
   (Off.mvDx, .readWrite), (Off.mvDy, .readWrite), (Off.mvDz, .readWrite), (Off.mvFeed, .readWrite),
   (Off.mvK, .readOnly), (Off.mvCtrl, .writeOnly), (Off.mvStatus, .readOnly), (Off.mvTicks, .readOnly),
   (Off.mvTimer, .readOnly), (Off.mvNseg, .readOnly), (Off.mvSegLeft, .readOnly), (Off.mvSegDx, .readOnly),
   (Off.mvSegDy, .readOnly), (Off.mvSegDz, .readOnly), (Off.mvSegIndex, .readOnly), (Off.mvMaster, .readOnly),
   (Off.mvNext, .writeOnly), (Off.glbErr, .readOnly)]

/-- The two byte windows stand together, offsets 0x400–0xBFF, both read-only (R38, R44). -/
def inWindow (off : Offset) : Bool := 0x400 ≤ off.toNat && off.toNat < 0xC00

/-- What stands at an aligned offset: `none` where the offset is unmapped (20_memory.md R65). -/
def offsetKind (off : Offset) : Option AccessKind :=
  if inWindow off then some .readOnly
  else ((codecRegisters ++ motionRegisters).find? (fun r => r.1 == off)).map (fun r => r.2)

/-! ## The opcode table -/

/-- The access word `AW = {dir, off[11:0]}` of an access (30_encoding.md R80). -/
def Access.word (a : Access) : AccessWord :=
  (match a.dir with
   | .read => 0#1
   | .write => 1#1) ++ a.off

/-- The field `wdata[lo + n − 1 : lo]`, an unsigned bit field (R8, R82). -/
def field (w : Word) (lo n : Nat) : BitVec n := w.extractLsb' lo n

/-- One command bit `wdata[i]` of a `W-CTRL` operation (R81). -/
def ctrlBit (w : Word) (i : Nat) : Bool := w.getLsbD i

/-- The word index `k = off[9:2]` of a window read (R81). -/
def wordIndex (off : Offset) : Nat := (off.extractLsb' 2 8).toNat

/-- One row of the table: an access is the operation when `(AW & mask) = match`; `build` cuts its operands. -/
structure Row where
  pattern : AccessWord
  mask    : AccessWord
  build   : Offset → Word → Instr

/-- A row whose mask is `0x1FFF`: it fixes every bit of `AW`. -/
def exactRow (pattern : AccessWord) (build : Word → Instr) : Row :=
  ⟨pattern, 0x1FFF#13, fun _ w => build w⟩

/-- The rows of the system and CRC units. -/
def systemRows : List Row :=
  [exactRow 0x0000#13 (fun _ => .sysId),
   exactRow 0x0004#13 (fun _ => .sysVersion),
   exactRow 0x1008#13 (fun w => .sysCtrl (ctrlBit w 0) (ctrlBit w 1)),
   exactRow 0x000C#13 (fun _ => .sysParam),
   exactRow 0x00F0#13 (fun _ => .sysErr),
   exactRow 0x1010#13 (fun w => .crcCtrl (ctrlBit w 0)),
   exactRow 0x1014#13 (fun w => .crcUpdate (field w 0 8)),
   exactRow 0x0018#13 (fun _ => .crcValue)]

/-- The rows of the encoder. -/
def encoderRows : List Row :=
  [exactRow 0x1020#13 (fun w => .encBegin (field w 0 8) (field w 8 8)),
   exactRow 0x1024#13 (fun w => .encAdd8 (field w 0 8)),
   exactRow 0x1028#13 (fun w => .encAdd16 (field w 0 16)),
   exactRow 0x102C#13 (fun w => .encAdd32 w),
   exactRow 0x1030#13 (fun _ => .encFinalize),
   exactRow 0x0034#13 (fun _ => .encStatus),
   exactRow 0x0038#13 (fun _ => .encFramelen),
   exactRow 0x103C#13 (fun w => .encCtrl (ctrlBit w 0) (ctrlBit w 1)),
   ⟨0x0400#13, 0x1C00#13, fun off _ => .encFrame (wordIndex off)⟩]

/-- The rows of the decoder and the reader. -/
def decoderRows : List Row :=
  [exactRow 0x1040#13 (fun w => .decCtrl (ctrlBit w 0) (ctrlBit w 1)),
   exactRow 0x1044#13 (fun w => .decPush (field w 0 8)),
   exactRow 0x0048#13 (fun _ => .decStatus),
   exactRow 0x004C#13 (fun _ => .decErrinfo),
   ⟨0x0800#13, 0x1C00#13, fun off _ => .decBody (wordIndex off)⟩,
   exactRow 0x1060#13 (fun w => .rdCtrl (ctrlBit w 0) (ctrlBit w 1)),
   exactRow 0x0064#13 (fun _ => .rdCode),
   exactRow 0x0068#13 (fun _ => .rdGet8),
   exactRow 0x006C#13 (fun _ => .rdGet16),
   exactRow 0x0070#13 (fun _ => .rdGet32),
   exactRow 0x0074#13 (fun _ => .rdStatus)]

/-- The rows of the quantizer and the planner's inputs and controls. -/
def plannerRows : List Row :=
  [exactRow 0x1080#13 (fun w => .tqSet w),
   exactRow 0x0080#13 (fun _ => .tqGet),
   exactRow 0x0084#13 (fun _ => .tqResult),
   exactRow 0x1090#13 (fun w => .mvSetdx w),
   exactRow 0x0090#13 (fun _ => .mvGetdx),
   exactRow 0x1094#13 (fun w => .mvSetdy w),
   exactRow 0x0094#13 (fun _ => .mvGetdy),
   exactRow 0x1098#13 (fun w => .mvSetdz w),
   exactRow 0x0098#13 (fun _ => .mvGetdz),
   exactRow 0x109C#13 (fun w => .mvSetfeed w),
   exactRow 0x009C#13 (fun _ => .mvGetfeed),
   exactRow 0x00A0#13 (fun _ => .mvK),
   exactRow 0x10A4#13 (fun w => .mvCtrl (ctrlBit w 0) (ctrlBit w 1))]

/-- The rows of the planner's results. -/
def resultRows : List Row :=
  [exactRow 0x00A8#13 (fun _ => .mvStatus),
   exactRow 0x00AC#13 (fun _ => .mvTicks),
   exactRow 0x00B0#13 (fun _ => .mvTimer),
   exactRow 0x00B4#13 (fun _ => .mvNseg),
   exactRow 0x00B8#13 (fun _ => .mvSegleft),
   exactRow 0x00BC#13 (fun _ => .mvSegdx),
   exactRow 0x00C0#13 (fun _ => .mvSegdy),
   exactRow 0x00C4#13 (fun _ => .mvSegdz),
   exactRow 0x00C8#13 (fun _ => .mvSegindex),
   exactRow 0x00CC#13 (fun _ => .mvMaster),
   exactRow 0x10D0#13 (fun _ => .mvNext)]

/-- spec/opcode_table.json, all 52 rows. -/
def opTable : List Row := systemRows ++ encoderRows ++ decoderRows ++ plannerRows ++ resultRows

/-- Whether an access word is of a row: `(AW & op.mask) = op.match` (R80). -/
def Row.accepts (r : Row) (aw : AccessWord) : Bool := aw &&& r.mask == r.pattern

/-! ## The decoder -/

/-- The operation of an access, or the cause of the generic check that turns it away, in the order SIZE, ALIGN,
UNMAPPED, DIRECTION (60_exceptions.md R261, R266; 30_encoding.md R80, R90). Total: every access has one of the two
answers. -/
def decode (a : Access) : Except Cause Instr :=
  if a.size ≠ 4 then .error .size
  else if a.off.toNat % 4 ≠ 0 then .error .align
  else match opTable.find? (fun r => r.accepts a.word) with
    | some r => .ok (r.build a.off a.wdata)
    | none => if (offsetKind a.off).isSome then .error .direction else .error .unmapped

/-- The access whose bits are `w`: the access word in bits 12..0 of a first 16-bit word, the data word in bits 47..16.
The spec gives an access no bit layout beyond `AW`; this one is the model's (log entry 2). -/
def Access.ofBits (w : Nat) : Access where
  dir := if w.testBit 12 then .write else .read
  off := BitVec.ofNat 12 w
  size := 4
  wdata := BitVec.ofNat 32 (w >>> 16)

/-- The instruction that `decode` reads from a row's bits, numbered as spec/opcode_table.json numbers them. -/
def decodeTableWord (nbits w : Nat) : Option Instr :=
  match decode (Access.ofBits (w % 2 ^ nbits)) with
  | .ok i => some i
  | .error _ => none

/-! ## The encoder, from R91's expansions -/

/-- `R off`: a 4-byte read (00_scope.md R11). -/
def Access.rd (off : Offset) : Access := ⟨.read, off, 4, 0#32⟩

/-- `W off, value`: a 4-byte write (R11). -/
def Access.wr (off : Offset) (value : Word) : Access := ⟨.write, off, 4, value⟩

/-- The data word of a `W-CTRL` write with two command bits; reserved bits are written 0 (R262). -/
def ctrlWord (bit0 bit1 : Bool) : Word := (BitVec.ofBool bit1 ++ BitVec.ofBool bit0).setWidth 32

/-- The access of an operation (R91). -/
def encode : Instr → Access
  | .sysId => .rd Off.id
  | .sysVersion => .rd Off.version
  | .sysCtrl softReset clrErr => .wr Off.glbCtrl (ctrlWord softReset clrErr)
  | .sysParam => .rd Off.param
  | .sysErr => .rd Off.glbErr
  | .crcCtrl reset => .wr Off.crcCtrl (ctrlWord reset false)
  | .crcUpdate byte => .wr Off.crcData (byte.setWidth 32)
  | .crcValue => .rd Off.crcValue
  | .encBegin target command => .wr Off.encBegin ((command ++ target).setWidth 32)
  | .encAdd8 value => .wr Off.encAdd8 (value.setWidth 32)
  | .encAdd16 value => .wr Off.encAdd16 (value.setWidth 32)
  | .encAdd32 value => .wr Off.encAdd32 value
  | .encFinalize => .wr Off.encFinalize 0#32
  | .encStatus => .rd Off.encStatus
  | .encFramelen => .rd Off.encFrameLen
  | .encCtrl clrErr abort => .wr Off.encCtrl (ctrlWord clrErr abort)
  | .encFrame k => .rd (Off.encFrame + BitVec.ofNat 12 (4 * k))
  | .decCtrl reset clrErr => .wr Off.decCtrl (ctrlWord reset clrErr)
  | .decPush byte => .wr Off.decData (byte.setWidth 32)
  | .decStatus => .rd Off.decStatus
  | .decErrinfo => .rd Off.decErrinfo
  | .decBody k => .rd (Off.decBody + BitVec.ofNat 12 (4 * k))
  | .rdCtrl rewind clrErr => .wr Off.rdCtrl (ctrlWord rewind clrErr)
  | .rdCode => .rd Off.rdCode
  | .rdGet8 => .rd Off.rdGet8
  | .rdGet16 => .rd Off.rdGet16
  | .rdGet32 => .rd Off.rdGet32
  | .rdStatus => .rd Off.rdStatus
  | .tqSet ticks => .wr Off.tqTicks ticks
  | .tqGet => .rd Off.tqTicks
  | .tqResult => .rd Off.tqResult
  | .mvSetdx value => .wr Off.mvDx value
  | .mvGetdx => .rd Off.mvDx
  | .mvSetdy value => .wr Off.mvDy value
  | .mvGetdy => .rd Off.mvDy
  | .mvSetdz value => .wr Off.mvDz value
  | .mvGetdz => .rd Off.mvDz
  | .mvSetfeed value => .wr Off.mvFeed value
  | .mvGetfeed => .rd Off.mvFeed
  | .mvK => .rd Off.mvK
  | .mvCtrl plan clrErr => .wr Off.mvCtrl (ctrlWord plan clrErr)
  | .mvStatus => .rd Off.mvStatus
  | .mvTicks => .rd Off.mvTicks
  | .mvTimer => .rd Off.mvTimer
  | .mvNseg => .rd Off.mvNseg
  | .mvSegleft => .rd Off.mvSegLeft
  | .mvSegdx => .rd Off.mvSegDx
  | .mvSegdy => .rd Off.mvSegDy
  | .mvSegdz => .rd Off.mvSegDz
  | .mvSegindex => .rd Off.mvSegIndex
  | .mvMaster => .rd Off.mvMaster
  | .mvNext => .wr Off.mvNext 0#32

/-! ## The bus address of an access -/

/-- The bus address `BASE + off` of an access (20_memory.md R60, R65). -/
def Access.busAddress (a : Access) : Nat := Config.base + a.off.toNat

/-- The access a bus transaction at an address is to the block: none outside BASE .. BASE+0xFFF (R65). -/
def Access.ofBus (dir : Dir) (addr size : Nat) (wdata : Word) : Option Access :=
  if Config.base ≤ addr ∧ addr < Config.base + 4096 then
    some ⟨dir, BitVec.ofNat 12 (addr - Config.base), size, wdata⟩
  else none

end Sys2Proof
end

