-- ==== Sys2Proof/Machine/State.lean ====
section
/-!
DEFINITION. The state of the block, spec/10_state.md R19 to R59, with the reset values of
spec/70_reset_and_hazards.md R290; and two fields that are the model's own, the host side of the bus port: the
accesses the host has issued, and the response the last access ended with (log entries 3 and 4).
-/

namespace Sys2Proof.Machine

/-- Why the machine stops with a fault: it never does. "A BusError is a defined response of the block: a value of the
step ..., not a model fault", and "The block has no stuck state" (60_exceptions.md R277). No one raises it; safe. -/
inductive Fault where
  deriving DecidableEq, Repr

/-- Why the model refuses an operation. -/
inductive Refusal where
  /-- The instruction has no meaning yet, by its mnemonic. Raised by an arm of `exec` only; no arm does. Safe. -/
  | notModelled (mnemonic : String)
  deriving DecidableEq, Repr

/-- A byte buffer: its bytes by index, in the canonical form of `Memory.wf` (Ops.lean). An index that is not listed
reads 0x00, the reset contents of both buffers (R290). -/
abbrev Memory := List Host.Cell

/-! ## The units -/

/-- `enc_state` (10_state.md R29): IDLE = 0, OPEN = 1, DONE = 2; "Value 3 never occurs". -/
inductive EncState where
  | idle
  | opened
  | done
  deriving DecidableEq, Repr

/-- The internal fields of the encoder (R29). -/
structure Encoder where
  /-- `enc_state`. -/
  state    : EncState
  /-- `enc_buf[0..257]`, the frame buffer. -/
  buf      : Memory
  /-- `enc_len`, the body bytes appended so far. -/
  len      : Byte
  /-- `enc_crc`, the encoder's CRC instance. -/
  crc      : Byte
  /-- `enc_overflow`, sticky. -/
  overflow : Bool
  /-- `enc_seq_err`, sticky. -/
  seqErr   : Bool
  deriving DecidableEq, Repr

/-- `dec_phase` (R39): 0 to 4 in this order; "values 5 to 7 never occur". -/
inductive DecPhase where
  | awaitSentinel
  | awaitLength
  | awaitPayload
  | awaitCrc
  | complete
  deriving DecidableEq, Repr

/-- The internal fields of the decoder (R39). -/
structure Decoder where
  /-- `dec_phase`. -/
  phase       : DecPhase
  /-- `dec_len`, the length field L of the frame being received. -/
  len         : Byte
  /-- `dec_count`, the body bytes collected so far. -/
  count       : Byte
  /-- `dec_crc`, the decoder's CRC instance. -/
  crc         : Byte
  /-- `dec_body[0..254]`. -/
  body        : Memory
  /-- `dec_crc_err`, sticky. -/
  crcErr      : Bool
  /-- `dec_rx_crc`, the received CRC at the last mismatch. -/
  rxCrc       : Byte
  /-- `dec_calc_crc`, the computed CRC at the last mismatch. -/
  calcCrc     : Byte
  /-- `dec_mismatch_cnt`, saturating at 0xFFFF. -/
  mismatchCnt : BitVec 16
  deriving DecidableEq, Repr

/-- The internal fields of the reader (R45). -/
structure Reader where
  /-- `rd_cursor`, the index into `dec_body` of the next byte a get reads. -/
  cursor   : Byte
  /-- `rd_past_end`, sticky. -/
  pastEnd  : Bool
  /-- `rd_not_ready`, sticky. -/
  notReady : Bool
  deriving DecidableEq, Repr

/-- `mv_sgn[a]` ∈ {−1, +1} (R59). -/
inductive Sign where
  | plus
  | minus
  deriving DecidableEq, Repr

/-- One value for each axis a ∈ {x, y, z}. -/
structure PerAxis (α : Type) where
  x : α
  y : α
  z : α
  deriving DecidableEq, Repr

/-- The registers and hidden fields of the move planner (R52 to R59). -/
structure Planner where
  /-- MV_DX, MV_DY, MV_DZ, two's complement (R52). -/
  delta    : PerAxis Word
  /-- MV_FEED (R52). -/
  feed     : Word
  /-- MV_STATUS.PLANNED (R55). -/
  planned  : Bool
  /-- MV_STATUS.ZERO_MOVE (R55). -/
  zeroMove : Bool
  /-- MV_STATUS.FEED_ZERO, sticky (R55). -/
  feedZero : Bool
  /-- MV_STATUS.TICKS_SAT (R55). -/
  ticksSat : Bool
  /-- MV_STATUS.SEG_VALID (R55). -/
  segValid : Bool
  /-- MV_STATUS.SEQ_ERR, sticky (R55). -/
  seqErr   : Bool
  /-- MV_TICKS (R56). -/
  ticks    : Word
  /-- MV_TIMER (R56). -/
  timer    : Word
  /-- MV_NSEG (R56). -/
  nseg     : Word
  /-- MV_SEG_LEFT (R56). -/
  segLeft  : Word
  /-- MV_MASTER (R56). -/
  master   : Word
  /-- MV_SEG_DX, MV_SEG_DY, MV_SEG_DZ, two's complement (R57). -/
  seg      : PerAxis Word
  /-- MV_SEG_INDEX (R57). -/
  segIndex : Word
  /-- `mv_sgn[a]`, hidden (R59). -/
  sgn      : PerAxis Sign
  /-- `mv_rem[a]`, hidden: "an unsigned number 0..2^31" (R59). -/
  rem      : PerAxis Nat
  /-- `mv_remM`, hidden: 0..2^31 (R59). -/
  remM     : Nat
  deriving DecidableEq, Repr

/-! ## The bus port -/

/-- What the outside world does to the block: an access of the one bus master (20_memory.md R60), or a power-on
(70_reset_and_hazards.md R290), "except reset" the only other step (R60). -/
inductive HostEvent where
  | access (a : Access)
  | powerOn
  deriving DecidableEq, Repr

/-- How the last access ended (20_memory.md R60; 60_exceptions.md R260). -/
inductive Response where
  /-- No access has ended since power-on. -/
  | idle
  /-- A write ended with `ok`. -/
  | ok
  /-- A read ended with `rdata`. -/
  | rdata (value : Word)
  /-- The access ended with `BusError(cause)`. -/
  | busError (dir : Dir) (cause : Cause)
  deriving DecidableEq, Repr

/-! ## The whole state -/

/-- The architectural state, "exactly: the registers and internal fields of rules R19 and R21 to R59, the two byte
windows (rule R38, rule R44), and nothing else" (R20), and the bus port's two fields. Identity registers and MV_K are
constants, and the status words and windows are views, so none of them is stored. -/
structure State where
  /-- GLB_ERR, the record of the most recent bus error (R19). -/
  glbErr  : Word
  /-- `crc_acc`, the standalone CRC instance (R28). -/
  crcAcc  : Byte
  /-- The encoder (R29). -/
  enc     : Encoder
  /-- The decoder (R39). -/
  dec     : Decoder
  /-- The reader (R45). -/
  rd      : Reader
  /-- TQ_TICKS (R50). -/
  tqTicks : Word
  /-- The move planner (R52 to R59). -/
  mv      : Planner
  /-- The model's own: the host events not yet taken, the oldest first (R60, R69). -/
  pending : List HostEvent
  /-- The model's own: the response of the last access (R60). -/
  resp    : Response
  deriving DecidableEq, Repr

/-! ## Reset, 70_reset_and_hazards.md R290 -/

/-- The encoder at power-on: IDLE, an all-zero buffer, no flag (R290). -/
def Encoder.reset : Encoder :=
  { state := .idle, buf := [], len := 0#8, crc := 0#8, overflow := false, seqErr := false }

/-- The decoder at power-on: AwaitSentinel, an all-zero body, no flag (R290). -/
def Decoder.reset : Decoder :=
  { phase := .awaitSentinel, len := 0#8, count := 0#8, crc := 0#8, body := [], crcErr := false,
    rxCrc := 0#8, calcCrc := 0#8, mismatchCnt := 0#16 }

/-- The reader at power-on: cursor 0, no flag (R290). -/
def Reader.reset : Reader := { cursor := 0#8, pastEnd := false, notReady := false }

/-- The planner at power-on: inputs 0, no plan, signs +1 (R290). -/
def Planner.reset : Planner :=
  { delta := ⟨0#32, 0#32, 0#32⟩, feed := 0#32,
    planned := false, zeroMove := false, feedZero := false, ticksSat := false, segValid := false, seqErr := false,
    ticks := 0#32, timer := 0#32, nseg := 0#32, segLeft := 0#32, master := 0#32,
    seg := ⟨0#32, 0#32, 0#32⟩, segIndex := 0#32,
    sgn := ⟨.plus, .plus, .plus⟩, rem := ⟨0, 0, 0⟩, remM := 0 }

/-- The block right after power-on (R290): "No field is unspecified". The bus port holds no access and no response. -/
def State.reset : State :=
  { glbErr := 0#32, crcAcc := Config.crcInit, enc := Encoder.reset, dec := Decoder.reset, rd := Reader.reset,
    tqTicks := 0#32, mv := Planner.reset, pending := [], resp := .idle }

end Sys2Proof.Machine
end

