-- ==== Sys2Proof/Machine/Operands.lean ====
section
/-!
DEFINITION. How values are cut into bytes and put together again. Both the bus and the codec are little-endian
(spec/20_memory.md R63, R64): the byte that stands first is the least significant.
-/

namespace Sys2Proof.Machine

/-- Byte `i` of a bus word, the byte at `BASE + off + i` (20_memory.md R63). -/
def byteLane (w : Word) (i : Nat) : Byte := w.extractLsb' (8 * i) 8

/-- The bytes of an 8-bit operand (41_encoder.md R121). -/
def le8 (v : Byte) : List Byte := [v]

/-- The bytes of a 16-bit operand, least significant first (R122). -/
def le16 (v : Half) : List Byte := [v.extractLsb' 0 8, v.extractLsb' 8 8]

/-- The bytes of a 32-bit operand, least significant first (R123). -/
def le32 (v : Word) : List Byte := [byteLane v 0, byteLane v 1, byteLane v 2, byteLane v 3]

/-- The number `Σ v_i · 2^(8·i)` that a byte sequence stands for (43_reader.md R184). -/
def leValue : List Byte → Nat
  | [] => 0
  | b :: rest => b.toNat + 256 * leValue rest

/-- `{b3, b2, b1, b0}`, four stream bytes packed into a word (10_state.md R38, R44). -/
def packWord (b0 b1 b2 b3 : Byte) : Word := b3 ++ b2 ++ b1 ++ b0

/-- Word `k` of a byte window: `{b(4k+3), b(4k+2), b(4k+1), b(4k)}` (30_encoding.md R81). -/
def windowWord (b : Nat → Byte) (k : Nat) : Word :=
  packWord (b (4 * k)) (b (4 * k + 1)) (b (4 * k + 2)) (b (4 * k + 3))

/-- The sign of a step delta: `sgn(v)` is −1 when `v < 0` and +1 otherwise (00_scope.md R9). -/
def signOf (d : Int) : Sign := if d < 0 then .minus else .plus

/-- A magnitude with a sign, as a number. -/
def Sign.apply : Sign → Nat → Int
  | .plus, n => n
  | .minus, n => -n

/-- One function for each axis. -/
def PerAxis.map {α β : Type} (f : α → β) (p : PerAxis α) : PerAxis β := ⟨f p.x, f p.y, f p.z⟩

/-- A function of two values of each axis. -/
def PerAxis.zip {α β γ : Type} (f : α → β → γ) (p : PerAxis α) (q : PerAxis β) : PerAxis γ :=
  ⟨f p.x q.x, f p.y q.y, f p.z q.z⟩

end Sys2Proof.Machine
end

