-- ==== Sys2Proof/Machine/Ops.lean ====
section
/-!
DEFINITION. The operations that every unit shares: the bytes of a buffer, the three ways an access ends (`ok`,
`rdata`, BusError), and the two resets. A BusError is "the whole 'trap entry' of the block" (spec/60_exceptions.md
R260); "there is no return-from-trap operation" (R269), so none stands here.
-/

namespace Sys2Proof.Machine

/-! ## The bytes of a buffer -/

/-- What an index that is not listed reads as: 0x00, the reset contents of `enc_buf` and `dec_body` (R290). -/
def Memory.unlisted : Byte := 0x00#8

/-- The byte at an index. -/
def Memory.read : Memory → Nat → Byte
  | [], _ => Memory.unlisted
  | (k, v) :: rest, a => if k = a then v else Memory.read rest a

/-- The buffer with one byte stored; a byte equal to the unlisted one is not listed. -/
def Memory.write : Memory → Nat → Byte → Memory
  | [], a, b => if b = Memory.unlisted then [] else [(a, b)]
  | (k, v) :: rest, a, b =>
    if a < k then (if b = Memory.unlisted then (k, v) :: rest else (a, b) :: (k, v) :: rest)
    else if a = k then (if b = Memory.unlisted then rest else (a, b) :: rest)
    else (k, v) :: Memory.write rest a b

/-- Every listed index is above `lo`. -/
def Memory.above (lo : Nat) : Memory → Bool
  | [] => true
  | (k, _) :: rest => decide (lo < k) && Memory.above lo rest

/-- The canonical form: indices strictly rising, and no entry equal to what an unlisted index reads as. -/
def Memory.wf : Memory → Bool
  | [] => true
  | (k, v) :: rest => decide (v ≠ Memory.unlisted) && Memory.above k rest && Memory.wf rest

/-- Every listed index is below the buffer's size. -/
def Memory.within (size : Nat) : Memory → Bool
  | [] => true
  | (k, _) :: rest => decide (k < size) && Memory.within size rest

/-- A store into a buffer of `size` bytes. An index at or past the size names no byte, and nothing is stored: no state
that a run reaches stores there (log entry 5). -/
def Memory.store (size : Nat) (m : Memory) (a : Nat) (b : Byte) : Memory :=
  if a < size then m.write a b else m

/-- The buffer bytes `a, a+1, …, a+n−1`. -/
def Memory.slice (m : Memory) (a : Nat) : Nat → List Byte
  | 0 => []
  | n + 1 => m.read a :: Memory.slice m (a + 1) n

/-- A buffer all of whose bytes are 0x00. -/
def Memory.zeros : Memory := []

/-! ## How an access ends -/

/-- A write ends with `ok` (20_memory.md R60). -/
def State.ok (s : State) : State := { s with resp := .ok }

/-- A read ends with `rdata` (R60). -/
def State.answer (s : State) (value : Word) : State := { s with resp := .rdata value }

/-- The cause code recorded in GLB_ERR.CAUSE (60_exceptions.md R263). -/
def causeCode : Cause → BitVec 4
  | .size => 1#4
  | .align => 2#4
  | .unmapped => 3#4
  | .direction => 4#4
  | .sequence => 5#4
  | .overflow => 6#4
  | .notReady => 7#4
  | .pastEnd => 8#4

/-- GLB_ERR.WRITE: 1 for a write (10_state.md R19). -/
def dirBit : Dir → BitVec 1
  | .read => 0#1
  | .write => 1#1

/-- The record of a bus error: `{0 (4 bits), off[11:0], 0 (11 bits), dir, cause[3:0]}` (R260, R19). -/
def errorRecord (dir : Dir) (off : Offset) (cause : Cause) : Word :=
  0#4 ++ off ++ 0#11 ++ dirBit dir ++ causeCode cause

/-- `raise BusError(cause)` (R260): the record is overwritten and the access ends with an error response. The sticky
flag that the raising rule names is set by that rule. -/
def State.raise (s : State) (dir : Dir) (off : Offset) (cause : Cause) : State :=
  { s with glbErr := errorRecord dir off cause, resp := .busError dir cause }

/-- What the data lines carry after an access: `rdata`, and 0x00000000 for a read that failed (R260); a write drives
none. -/
def Response.dataLines : Response → Option Word
  | .rdata v => some v
  | .busError .read _ => some 0#32
  | .busError .write _ => none
  | .ok => none
  | .idle => none

/-! ## Resets -/

/-- `soft_reset()`: "sets every state field to its power-on value" (70_reset_and_hazards.md R291). The accesses the
host has yet to make are the host's and stand. -/
def State.softReset (s : State) : State :=
  { State.reset with pending := s.pending, resp := s.resp }

/-- Power-on (R290): the reset state, with the host's later events still to come. -/
def State.powerOn (s : State) : State := { State.reset with pending := s.pending }

end Sys2Proof.Machine
end

