-- ==== Sys2Proof/Machine/Flags.lean ====
section
/-!
DEFINITION. The status words of spec/10_state.md, assembled from the state they are views of. A bit outside every field
reads 0 (60_exceptions.md R262).
-/

namespace Sys2Proof.Machine

/-- ENC_STATUS.STATE (R29, R35). -/
def encStateCode : EncState → BitVec 2
  | .idle => 0#2
  | .opened => 1#2
  | .done => 2#2

/-- ENC_STATUS: `{0x00, enc_crc, enc_len, 0b0000, enc_seq_err, enc_overflow, enc_state}` (R35, 41_encoder.md R127). -/
def encStatusWord (e : Encoder) : Word :=
  0#8 ++ e.crc ++ e.len ++ 0#4 ++ BitVec.ofBool e.seqErr ++ BitVec.ofBool e.overflow ++ encStateCode e.state

/-- ENC_FRAME_LEN: 0 in IDLE, `2 + enc_len` in OPEN, `3 + enc_len` in DONE (R36, R128). -/
def encFrameLen (e : Encoder) : Nat :=
  match e.state with
  | .idle => 0
  | .opened => 2 + e.len.toNat
  | .done => 3 + e.len.toNat

/-- DEC_STATUS.PHASE (R39, R42). -/
def decPhaseCode : DecPhase → BitVec 3
  | .awaitSentinel => 0#3
  | .awaitLength => 1#3
  | .awaitPayload => 2#3
  | .awaitCrc => 3#3
  | .complete => 4#3

/-- DEC_STATUS: `{dec_crc, dec_count, dec_len, 0b000, dec_crc_err, 0b0, dec_phase}` (R42, 42_decoder.md R157). -/
def decStatusWord (d : Decoder) : Word :=
  d.crc ++ d.count ++ d.len ++ 0#3 ++ BitVec.ofBool d.crcErr ++ 0#1 ++ decPhaseCode d.phase

/-- DEC_ERRINFO: `{dec_mismatch_cnt, dec_calc_crc, dec_rx_crc}` (R43, R158). -/
def decErrinfoWord (d : Decoder) : Word := d.mismatchCnt ++ d.calcCrc ++ d.rxCrc

/-- Whether a decoded body stands: `dec_phase = Complete` (RD_STATUS.READY, R49). -/
def Decoder.ready (d : Decoder) : Bool := d.phase == .complete

/-- RD_STATUS.AVAIL: `max(0, dec_len − rd_cursor)` when a body stands, else 0 (R49, 43_reader.md R186). -/
def rdAvail (d : Decoder) (r : Reader) : Nat := if d.ready then d.len.toNat - r.cursor.toNat else 0

/-- RD_STATUS: `{0 (13 bits), rd_not_ready, rd_past_end, READY, avail, rd_cursor}` (R49, R186). -/
def rdStatusWord (d : Decoder) (r : Reader) : Word :=
  0#13 ++ BitVec.ofBool r.notReady ++ BitVec.ofBool r.pastEnd ++ BitVec.ofBool d.ready ++
    BitVec.ofNat 8 (rdAvail d r) ++ r.cursor

/-- RD_CODE: `{0 (23 bits), code = OK_CODE, code}` (R47, R180). -/
def rdCodeWord (okCode code : Byte) : Word := 0#23 ++ BitVec.ofBool (code == okCode) ++ code

/-- MV_STATUS: `{0 (26 bits), SEQ_ERR, SEG_VALID, TICKS_SAT, FEED_ZERO, ZERO_MOVE, PLANNED}` (R55, 44_segmenter.md
R210). -/
def mvStatusWord (p : Planner) : Word :=
  0#26 ++ BitVec.ofBool p.seqErr ++ BitVec.ofBool p.segValid ++ BitVec.ofBool p.ticksSat ++
    BitVec.ofBool p.feedZero ++ BitVec.ofBool p.zeroMove ++ BitVec.ofBool p.planned

/-- The quantizer's output `(band, counter, sat)` (45_quantizer.md R240). -/
structure TimerSetting where
  band    : Nat
  counter : Nat
  sat     : Bool
  deriving DecidableEq, Repr

/-- The TQ_RESULT layout `{0 (7 bits), sat, 0 (5 bits), band[2:0], counter[15:0]}` (R51, R202, R243). -/
def timerWord (t : TimerSetting) : Word :=
  0#7 ++ BitVec.ofBool t.sat ++ 0#5 ++ BitVec.ofNat 3 t.band ++ BitVec.ofNat 16 t.counter

/-- PARAM: `{0 (13 bits), 0b100, OK_CODE, SENTINEL}` (R24, 46_system.md R253). -/
def paramWord (okCode : Byte) : Word := 0#13 ++ 4#3 ++ okCode ++ Config.sentinel

end Sys2Proof.Machine
end

