-- ==== Sys2Proof/Machine/Crc.lean ====
section
/-!
DEFINITION. The checksum engine (spec/40_crc.md): the CRC-8 update that the CRC unit, the encoder and the decoder
share, and the three operations of the CRC unit.
-/

namespace Sys2Proof.Machine

open Host (Outcome)

/-- One shift: right by one, "with conditional XOR of `0x8C` when the shifted-out bit was 1" (R100). -/
def crc8Shift (c : Byte) : Byte := if c.getLsbD 0 then (c >>> 1) ^^^ Config.crcPoly else c >>> 1

/-- `n` shifts. -/
def crc8Shifts : Nat → Byte → Byte
  | 0, c => c
  | n + 1, c => crc8Shifts n (crc8Shift c)

/-- `crc8_update(c, b)`: XOR the byte in, then eight shifts (R100). -/
def crc8Update (c b : Byte) : Byte := crc8Shifts 8 (c ^^^ b)

/-- The fold of `crc8_update` over a sequence, from any accumulator. -/
def crc8From (c : Byte) (bytes : List Byte) : Byte := bytes.foldl crc8Update c

/-- `crc8(s)`: the left fold from 0x00 (R104). -/
def crc8 (bytes : List Byte) : Byte := crc8From Config.crcInit bytes

/-- CRC.CTRL: `if wdata[0] = 1 then crc_acc <- 0x00` (R102). -/
def execCrcCtrl (reset : Bool) (s : State) : Outcome State Fault Refusal :=
  .next { s with crcAcc := if reset then Config.crcInit else s.crcAcc }.ok

/-- CRC.UPDATE: `crc_acc <- crc8_update(crc_acc, wdata[7:0])` (R101). -/
def execCrcUpdate (byte : Byte) (s : State) : Outcome State Fault Refusal :=
  .next { s with crcAcc := crc8Update s.crcAcc byte }.ok

/-- CRC.VALUE: `rdata <- zext_32(crc_acc)` (R103). -/
def execCrcValue (s : State) : Outcome State Fault Refusal := .next (s.answer (s.crcAcc.setWidth 32))

end Sys2Proof.Machine
end

