-- ==== Sys2Proof/Machine/Decoder.lean ====
section
/-!
DEFINITION. The packet decoder (spec/42_decoder.md).
-/

namespace Sys2Proof.Machine

open Host (Outcome)

/-- `dec_clear()` with the return to AwaitSentinel that follows it in every use (R150, R154, R155). -/
def Decoder.restart (d : Decoder) : Decoder :=
  { d with phase := .awaitSentinel, len := 0#8, count := 0#8, crc := 0#8, body := Memory.zeros }

/-- `step_sentinel(b)`: any other byte "is discarded, no state changes" (R151). -/
def Decoder.stepSentinel (d : Decoder) (b : Byte) : Decoder :=
  if b = Config.sentinel then { d with phase := .awaitLength } else d

/-- `step_length(b)`: an empty body goes straight to AwaitCrc (R151). -/
def Decoder.stepLength (d : Decoder) (b : Byte) : Decoder :=
  { d with
    len := b, count := 0#8, crc := 0#8, body := Memory.zeros
    phase := if b = 0#8 then .awaitCrc else .awaitPayload }

/-- `step_payload(b)`: every body byte is data; the last one leads to AwaitCrc (R152). -/
def Decoder.stepPayload (d : Decoder) (b : Byte) : Decoder :=
  { d with
    body := d.body.store Config.bodySize d.count.toNat b
    crc := crc8Update d.crc b
    count := d.count + 1
    phase := if d.count + 1 = d.len then .awaitCrc else .awaitPayload }

/-- `crc_mismatch(b)`: the record is written, the frame discarded (R154). -/
def Decoder.mismatch (d : Decoder) (b : Byte) : Decoder :=
  { d.restart with
    crcErr := true
    rxCrc := b
    calcCrc := d.crc
    mismatchCnt := if d.mismatchCnt = 0xFFFF#16 then d.mismatchCnt else d.mismatchCnt + 1 }

/-- `step_crc(b)` (R153, R154): a matching trailer completes the frame and sets the reader's cursor to 1. -/
def stepCrc (b : Byte) (s : State) : State :=
  if b = s.dec.crc then
    { s with dec := { s.dec with phase := .complete }, rd := { s.rd with cursor := 1#8 } }
  else
    { s with dec := s.dec.mismatch b }

/-- The push of one byte (R150): in Complete the body is discarded first, and the byte starts a new hunt. -/
def decPushByte (b : Byte) (s : State) : State :=
  match s.dec.phase with
  | .complete => { s with dec := s.dec.restart.stepSentinel b }
  | .awaitSentinel => { s with dec := s.dec.stepSentinel b }
  | .awaitLength => { s with dec := s.dec.stepLength b }
  | .awaitPayload => { s with dec := s.dec.stepPayload b }
  | .awaitCrc => stepCrc b s

/-- DEC_CTRL.CLR_ERR (R155). -/
def Decoder.clearErrors (d : Decoder) : Decoder :=
  { d with crcErr := false, rxCrc := 0#8, calcCrc := 0#8, mismatchCnt := 0#16 }

/-- Byte `i` of the DEC_BODY window (R156). -/
def Decoder.windowByte (d : Decoder) (i : Nat) : Byte :=
  if d.ready && decide (i < d.len.toNat) then d.body.read i else 0x00#8

/-- DEC.CTRL: RESET, then CLR_ERR (R155); `rd_cursor` is not changed. -/
def execDecCtrl (reset clrErr : Bool) (s : State) : Outcome State Fault Refusal :=
  let d := if reset then s.dec.restart else s.dec
  .next { s with dec := if clrErr then d.clearErrors else d }.ok

/-- DEC.PUSH (R150): "legal in every phase and never raises a decoder-specific error". -/
def execDecPush (byte : Byte) (s : State) : Outcome State Fault Refusal := .next (decPushByte byte s).ok

/-- DEC.STATUS (R157). -/
def execDecStatus (s : State) : Outcome State Fault Refusal := .next (s.answer (decStatusWord s.dec))

/-- DEC.ERRINFO (R158). -/
def execDecErrinfo (s : State) : Outcome State Fault Refusal := .next (s.answer (decErrinfoWord s.dec))

/-- DEC.BODY (R156). -/
def execDecBody (k : Nat) (s : State) : Outcome State Fault Refusal :=
  .next (s.answer (windowWord s.dec.windowByte k))

end Sys2Proof.Machine
end

