-- ==== Sys2Proof/Machine/Encoder.lean ====
section
/-!
DEFINITION. The packet encoder (spec/41_encoder.md).
-/

namespace Sys2Proof.Machine

open Host (Outcome)

/-- One body byte: stored at `enc_buf[2 + enc_len]`, folded into `enc_crc`, counted (the loop body of R129). -/
def Encoder.push (e : Encoder) (v : Byte) : Encoder :=
  { e with
    buf := e.buf.store Config.maxFrame (2 + e.len.toNat) v
    crc := crc8Update e.crc v
    len := e.len + 1 }

/-- The loop of R129 over all the bytes of an append. -/
def Encoder.pushAll (e : Encoder) (bytes : List Byte) : Encoder := bytes.foldl Encoder.push e

/-- `enc_append(bytes)` (R129), the write at `off`: SEQUENCE outside OPEN, OVERFLOW when the bytes do not all fit,
otherwise all of them appended. -/
def encAppend (off : Offset) (bytes : List Byte) (s : State) : State :=
  if s.enc.state ≠ .opened then
    { s with enc := { s.enc with seqErr := true } }.raise .write off .sequence
  else if s.enc.len.toNat + bytes.length > Config.maxLen then
    { s with enc := { s.enc with overflow := true } }.raise .write off .overflow
  else
    { s with enc := s.enc.pushAll bytes }.ok

/-- The encoder right after BEGIN: a cleared buffer holding sentinel, placeholder length, target and command; the
sticky bits as they were (R120). -/
def Encoder.begin (e : Encoder) (target command : Byte) : Encoder :=
  { e with
    state := .opened
    buf := (((Memory.zeros.write 0 Config.sentinel).write 1 0x00#8).write 2 target).write 3 command
    len := 2#8
    crc := crc8Update (crc8Update Config.crcInit target) command }

/-- The encoder after FINALIZE of an open frame: the length in its slot, the CRC trailer after the body (R124). -/
def Encoder.finalize (e : Encoder) : Encoder :=
  { e with
    state := .done
    buf := (e.buf.store Config.maxFrame 1 e.len).store Config.maxFrame (2 + e.len.toNat) e.crc }

/-- ENC_CTRL.CLR_ERR (R126). -/
def Encoder.clearErrors (e : Encoder) : Encoder := { e with overflow := false, seqErr := false }

/-- ENC_CTRL.ABORT: back to IDLE with a zero buffer; the sticky bits as they were (R126). -/
def Encoder.abort (e : Encoder) : Encoder :=
  { e with state := .idle, buf := Memory.zeros, len := 0#8, crc := 0#8 }

/-- Byte `i` of the ENC_FRAME window: `(i < ENC_FRAME_LEN) ? enc_buf[i] : 0x00` (R125). -/
def Encoder.windowByte (e : Encoder) (i : Nat) : Byte := if i < encFrameLen e then e.buf.read i else 0x00#8

/-- ENC.BEGIN (R120), legal in every state. -/
def execEncBegin (target command : Byte) (s : State) : Outcome State Fault Refusal :=
  .next { s with enc := s.enc.begin target command }.ok

/-- ENC.ADD8 (R121). -/
def execEncAdd8 (value : Byte) (s : State) : Outcome State Fault Refusal :=
  .next (encAppend Off.encAdd8 (le8 value) s)

/-- ENC.ADD16 (R122). -/
def execEncAdd16 (value : Half) (s : State) : Outcome State Fault Refusal :=
  .next (encAppend Off.encAdd16 (le16 value) s)

/-- ENC.ADD32 (R123). -/
def execEncAdd32 (value : Word) (s : State) : Outcome State Fault Refusal :=
  .next (encAppend Off.encAdd32 (le32 value) s)

/-- ENC.FINALIZE (R124). -/
def execEncFinalize (s : State) : Outcome State Fault Refusal :=
  if s.enc.state ≠ .opened then
    .next ({ s with enc := { s.enc with seqErr := true } }.raise .write Off.encFinalize .sequence)
  else
    .next { s with enc := s.enc.finalize }.ok

/-- ENC.STATUS (R127). -/
def execEncStatus (s : State) : Outcome State Fault Refusal := .next (s.answer (encStatusWord s.enc))

/-- ENC.FRAMELEN (R128). -/
def execEncFramelen (s : State) : Outcome State Fault Refusal :=
  .next (s.answer (BitVec.ofNat 32 (encFrameLen s.enc)))

/-- ENC.CTRL: CLR_ERR, then ABORT (R126). -/
def execEncCtrl (clrErr abort : Bool) (s : State) : Outcome State Fault Refusal :=
  let e := if clrErr then s.enc.clearErrors else s.enc
  .next { s with enc := if abort then e.abort else e }.ok

/-- ENC.FRAME (R125). -/
def execEncFrame (k : Nat) (s : State) : Outcome State Fault Refusal :=
  .next (s.answer (windowWord s.enc.windowByte k))

end Sys2Proof.Machine
end

