-- ==== Sys2Proof/Machine/Quantizer.lean ====
section
/-!
DEFINITION. The timer quantizer (spec/45_quantizer.md): the function `quantize`, which the move planner uses as well,
and the three operations of the TQ unit.
-/

namespace Sys2Proof.Machine

open Host (Outcome)

/-- The loop of R240 over the factors that are left, the smallest band first; `band` is the index of the next one. When
none of them reaches `t`, the last band saturates. -/
def quantizeFrom (t : Nat) : Nat → List Nat → TimerSetting
  | band, [] => ⟨band - 1, Config.cntMax, true⟩
  | band, f :: rest =>
    if Config.cntMax * f ≥ t then ⟨band, min (t / f) Config.cntMax, false⟩
    else quantizeFrom t (band + 1) rest

/-- `quantize(t)` (R240). -/
def quantize (t : Nat) : TimerSetting := quantizeFrom t 0 Config.tqFactors

/-- TQ.SET: `TQ_TICKS <- wdata` (R241). -/
def execTqSet (ticks : Word) (s : State) : Outcome State Fault Refusal := .next { s with tqTicks := ticks }.ok

/-- TQ.GET (R242). -/
def execTqGet (s : State) : Outcome State Fault Refusal := .next (s.answer s.tqTicks)

/-- TQ.RESULT: it "always shows `quantize(TQ_TICKS)`" (R243, 10_state.md R51). -/
def execTqResult (s : State) : Outcome State Fault Refusal :=
  .next (s.answer (timerWord (quantize s.tqTicks.toNat)))

end Sys2Proof.Machine
end

