-- ==== Sys2Proof/Machine/Planner.lean ====
section
/-!
DEFINITION. The move planner (spec/44_segmenter.md): the ticks formula, the plan, the segments, and the registers.
-/

namespace Sys2Proof.Machine

open Host (Outcome)

/-! ## The ticks formula -/

/-- The integer square root, one base-4 digit of the argument a call; `fuel` bounds the digits. -/
def isqrtFuel : Nat → Nat → Nat
  | 0, _ => 0
  | fuel + 1, n =>
    let r := 2 * isqrtFuel fuel (n / 4)
    if (r + 1) * (r + 1) ≤ n then r + 1 else r

/-- `isqrt(n)`, "the largest integer `r ≥ 0` with `r·r ≤ n`" (00_scope.md R9). -/
def isqrt (n : Nat) : Nat := isqrtFuel (Nat.log2 n + 1) n

/-- `ticks_exact(D2, M, F) = isqrt(D2 · K · K) div (F · M)` (R201). -/
def ticksExact (k d2 m f : Nat) : Nat := isqrt (d2 * k * k) / (f * m)

/-- The largest ticks value, 2^32 − 1 (R201). -/
def ticksMax : Nat := 2 ^ 32 - 1

/-- `ceil_div(a, b) = (a + b − 1) div b` (00_scope.md R9). -/
def ceilDiv (a b : Nat) : Nat := (a + b - 1) / b

/-- `nseg(M) = ceil_div(M, 65535)` (R203). -/
def segCount (m : Nat) : Nat := ceilDiv m Config.segMax

/-! ## The plan -/

/-- `m[a] = |d[a]|`, 0 .. 2^31, with no wrap (R200). -/
def Planner.magnitude (p : Planner) : PerAxis Nat := p.delta.map (fun w => w.toInt.natAbs)

/-- `s[a] = sgn(d[a])` (R200). -/
def Planner.direction (p : Planner) : PerAxis Sign := p.delta.map (fun w => signOf w.toInt)

/-- `M = max(m[x], m[y], m[z])` (R200). -/
def masterSteps (m : PerAxis Nat) : Nat := max m.x (max m.y m.z)

/-- `D2 = m[x]² + m[y]² + m[z]²` (R200). -/
def distanceSquared (m : PerAxis Nat) : Nat := m.x ^ 2 + m.y ^ 2 + m.z ^ 2

/-- `clear_plan()` (R202). -/
def Planner.clearPlan (p : Planner) : Planner :=
  { p with
    ticks := 0#32, timer := 0#32, nseg := 0#32, segLeft := 0#32, master := 0#32
    seg := ⟨0#32, 0#32, 0#32⟩, segIndex := 0#32
    planned := false, zeroMove := false, ticksSat := false, segValid := false
    sgn := ⟨.plus, .plus, .plus⟩, rem := ⟨0, 0, 0⟩, remM := 0 }

/-- The PLAN command with clock constant `k` (R202): a zero move, a refused plan, or a plan. -/
def Planner.plan (k : Nat) (p : Planner) : Planner :=
  let m := p.magnitude
  let master := masterSteps m
  let f := p.feed.toNat
  if master = 0 then { p.clearPlan with planned := true, zeroMove := true }
  else if f = 0 then { p.clearPlan with feedZero := true }
  else
    let exact := ticksExact k (distanceSquared m) master f
    let ticks := min exact ticksMax
    { p.clearPlan with
      planned := true
      master := BitVec.ofNat 32 master
      ticks := BitVec.ofNat 32 ticks
      ticksSat := decide (exact > ticksMax)
      timer := timerWord (quantize ticks)
      nseg := BitVec.ofNat 32 (segCount master)
      segLeft := BitVec.ofNat 32 (segCount master)
      sgn := p.direction
      rem := m
      remM := master }

/-- MV_CTRL.CLR_ERR (10_state.md R54). -/
def Planner.clearErrors (p : Planner) : Planner := { p with feedZero := false, seqErr := false }

/-! ## The segments -/

/-- A non-final share of one axis: `(2 · 65535 · rem + remM) div (2 · remM)`, the round-half-up of
`65535 · rem / remM` (R204, R205). -/
def segShare (remM rem : Nat) : Nat := (2 * Config.segMax * rem + remM) / (2 * remM)

/-- What each axis is given in the next segment (R204): a share, or in the last segment all that is left. -/
def Planner.allocation (p : Planner) : PerAxis Nat :=
  if p.remM > Config.segMax then p.rem.map (segShare p.remM) else p.rem

/-- The planner after a segment was produced (R204). -/
def Planner.advance (p : Planner) : Planner :=
  let al := p.allocation
  { p with
    seg := p.sgn.zip (fun g n => BitVec.ofInt 32 (g.apply n)) al
    rem := p.rem.zip (fun r n => r - n) al
    remM := if p.remM > Config.segMax then p.remM - Config.segMax else 0
    segLeft := p.segLeft - 1
    segIndex := p.segIndex + 1
    segValid := true }

/-! ## The operations -/

/-- MV.SETDX (R207). -/
def execMvSetdx (value : Word) (s : State) : Outcome State Fault Refusal :=
  .next { s with mv := { s.mv with delta := { s.mv.delta with x := value } } }.ok

/-- MV.SETDY (R207). -/
def execMvSetdy (value : Word) (s : State) : Outcome State Fault Refusal :=
  .next { s with mv := { s.mv with delta := { s.mv.delta with y := value } } }.ok

/-- MV.SETDZ (R207). -/
def execMvSetdz (value : Word) (s : State) : Outcome State Fault Refusal :=
  .next { s with mv := { s.mv with delta := { s.mv.delta with z := value } } }.ok

/-- MV.SETFEED (R207). -/
def execMvSetfeed (value : Word) (s : State) : Outcome State Fault Refusal :=
  .next { s with mv := { s.mv with feed := value } }.ok

/-- MV.GETDX (R208). -/
def execMvGetdx (s : State) : Outcome State Fault Refusal := .next (s.answer s.mv.delta.x)

/-- MV.GETDY (R208). -/
def execMvGetdy (s : State) : Outcome State Fault Refusal := .next (s.answer s.mv.delta.y)

/-- MV.GETDZ (R208). -/
def execMvGetdz (s : State) : Outcome State Fault Refusal := .next (s.answer s.mv.delta.z)

/-- MV.GETFEED (R208). -/
def execMvGetfeed (s : State) : Outcome State Fault Refusal := .next (s.answer s.mv.feed)

/-- MV.K: `rdata <- K` (R209). -/
def execMvK (s : State) : Outcome State Fault Refusal := .next (s.answer (BitVec.ofNat 32 Config.clock))

/-- MV.CTRL: "CLR_ERR takes effect first and PLAN second" (10_state.md R54, R202). -/
def execMvCtrl (plan clrErr : Bool) (s : State) : Outcome State Fault Refusal :=
  let p := if clrErr then s.mv.clearErrors else s.mv
  .next { s with mv := if plan then p.plan Config.clock else p }.ok

/-- MV.STATUS (R210). -/
def execMvStatus (s : State) : Outcome State Fault Refusal := .next (s.answer (mvStatusWord s.mv))

/-- MV.TICKS (R211). -/
def execMvTicks (s : State) : Outcome State Fault Refusal := .next (s.answer s.mv.ticks)

/-- MV.TIMER: the value stored at PLAN (R212). -/
def execMvTimer (s : State) : Outcome State Fault Refusal := .next (s.answer s.mv.timer)

/-- MV.NSEG (R213). -/
def execMvNseg (s : State) : Outcome State Fault Refusal := .next (s.answer s.mv.nseg)

/-- MV.SEGLEFT (R214). -/
def execMvSegleft (s : State) : Outcome State Fault Refusal := .next (s.answer s.mv.segLeft)

/-- MV.SEGDX (R215). -/
def execMvSegdx (s : State) : Outcome State Fault Refusal := .next (s.answer s.mv.seg.x)

/-- MV.SEGDY (R215). -/
def execMvSegdy (s : State) : Outcome State Fault Refusal := .next (s.answer s.mv.seg.y)

/-- MV.SEGDZ (R215). -/
def execMvSegdz (s : State) : Outcome State Fault Refusal := .next (s.answer s.mv.seg.z)

/-- MV.SEGINDEX (R216). -/
def execMvSegindex (s : State) : Outcome State Fault Refusal := .next (s.answer s.mv.segIndex)

/-- MV.MASTER (R217). -/
def execMvMaster (s : State) : Outcome State Fault Refusal := .next (s.answer s.mv.master)

/-- MV.NEXT: SEQUENCE when no segment is left, otherwise the next segment (R204). -/
def execMvNext (s : State) : Outcome State Fault Refusal :=
  if s.mv.segLeft = 0#32 then
    .next ({ s with mv := { s.mv with seqErr := true } }.raise .write Off.mvNext .sequence)
  else
    .next { s with mv := s.mv.advance }.ok

end Sys2Proof.Machine
end

