-- ==== Sys2Proof/Machine/Reader.lean ====
section
/-!
DEFINITION. The response reader (spec/43_reader.md). It reads the decoder's body in place.
-/

namespace Sys2Proof.Machine

open Host (Outcome)

/-- A failed read outside a decoded body: NOT_READY and its sticky flag (R180, R184). -/
def rdNotReady (off : Offset) (s : State) : State :=
  { s with rd := { s.rd with notReady := true } }.raise .read off .notReady

/-- `rd_get(n)` (R184), the read at `off`: NOT_READY outside Complete, PAST_END when fewer than `n` bytes are left,
otherwise the little-endian value and a cursor that moves on. -/
def rdGet (off : Offset) (n : Nat) (s : State) : State :=
  if s.dec.ready = false then rdNotReady off s
  else if s.rd.cursor.toNat + n > s.dec.len.toNat then
    { s with rd := { s.rd with pastEnd := true } }.raise .read off .pastEnd
  else
    { s with rd := { s.rd with cursor := s.rd.cursor + BitVec.ofNat 8 n } }.answer
      (BitVec.ofNat 32 (leValue (s.dec.body.slice s.rd.cursor.toNat n)))

/-- RD.CTRL: REWIND, then CLR_ERR (R185). -/
def execRdCtrl (rewind clrErr : Bool) (s : State) : Outcome State Fault Refusal :=
  let r := if rewind then { s.rd with cursor := 1#8 } else s.rd
  .next { s with rd := if clrErr then { r with pastEnd := false, notReady := false } else r }.ok

/-- RD.CODE: NOT_READY when no body is ready or the body is empty; else the raw first byte and IS_OK (R180). -/
def execRdCode (s : State) : Outcome State Fault Refusal :=
  if s.dec.ready = false ∨ s.dec.len = 0#8 then .next (rdNotReady Off.rdCode s)
  else .next (s.answer (rdCodeWord Config.okCode (s.dec.body.read 0)))

/-- RD.GET8 (R181). -/
def execRdGet8 (s : State) : Outcome State Fault Refusal := .next (rdGet Off.rdGet8 1 s)

/-- RD.GET16 (R182). -/
def execRdGet16 (s : State) : Outcome State Fault Refusal := .next (rdGet Off.rdGet16 2 s)

/-- RD.GET32 (R183). -/
def execRdGet32 (s : State) : Outcome State Fault Refusal := .next (rdGet Off.rdGet32 4 s)

/-- RD.STATUS (R186). -/
def execRdStatus (s : State) : Outcome State Fault Refusal := .next (s.answer (rdStatusWord s.dec s.rd))

end Sys2Proof.Machine
end

