-- ==== Sys2Proof/Machine/System.lean ====
section
/-!
DEFINITION. The system operations (spec/46_system.md): identity, the control register, the error record.
-/

namespace Sys2Proof.Machine

open Host (Outcome)

/-- SYS.ID: `rdata <- 0x43504752` (R250). -/
def execSysId (s : State) : Outcome State Fault Refusal := .next (s.answer 0x43504752#32)

/-- SYS.VERSION: `rdata <- 0x00010000` (R251). -/
def execSysVersion (s : State) : Outcome State Fault Refusal := .next (s.answer 0x00010000#32)

/-- GLB_CTRL's two commands, SOFT_RESET first and CLR_ERR second (R252). -/
def sysControl (softReset clrErr : Bool) (s : State) : State :=
  let s := if softReset then s.softReset else s
  if clrErr then { s with glbErr := 0#32 } else s

/-- SYS.CTRL (R252). -/
def execSysCtrl (softReset clrErr : Bool) (s : State) : Outcome State Fault Refusal :=
  .next (sysControl softReset clrErr s).ok

/-- SYS.PARAM (R253). -/
def execSysParam (s : State) : Outcome State Fault Refusal := .next (s.answer (paramWord Config.okCode))

/-- SYS.ERR: `rdata <- GLB_ERR`; "reading does not clear it" (R254). -/
def execSysErr (s : State) : Outcome State Fault Refusal := .next (s.answer s.glbErr)

end Sys2Proof.Machine
end

