-- ==== Sys2Proof/Machine/Dispatch.lean ====
section
/-!
DEFINITION. The dispatch: one arm per operation of the block, each one call of its meaning.
-/

namespace Sys2Proof.Machine

def exec (i : Instr) (s : State) : Host.Outcome State Fault Refusal :=
  match i with
  | .sysId => Sys2Proof.Machine.execSysId s
  | .sysVersion => Sys2Proof.Machine.execSysVersion s
  | .sysCtrl softReset clrErr => Sys2Proof.Machine.execSysCtrl softReset clrErr s
  | .sysParam => Sys2Proof.Machine.execSysParam s
  | .sysErr => Sys2Proof.Machine.execSysErr s
  | .crcCtrl reset => Sys2Proof.Machine.execCrcCtrl reset s
  | .crcUpdate byte => Sys2Proof.Machine.execCrcUpdate byte s
  | .crcValue => Sys2Proof.Machine.execCrcValue s
  | .encBegin target command => Sys2Proof.Machine.execEncBegin target command s
  | .encAdd8 value => Sys2Proof.Machine.execEncAdd8 value s
  | .encAdd16 value => Sys2Proof.Machine.execEncAdd16 value s
  | .encAdd32 value => Sys2Proof.Machine.execEncAdd32 value s
  | .encFinalize => Sys2Proof.Machine.execEncFinalize s
  | .encStatus => Sys2Proof.Machine.execEncStatus s
  | .encFramelen => Sys2Proof.Machine.execEncFramelen s
  | .encCtrl clrErr abort => Sys2Proof.Machine.execEncCtrl clrErr abort s
  | .encFrame k => Sys2Proof.Machine.execEncFrame k s
  | .decCtrl reset clrErr => Sys2Proof.Machine.execDecCtrl reset clrErr s
  | .decPush byte => Sys2Proof.Machine.execDecPush byte s
  | .decStatus => Sys2Proof.Machine.execDecStatus s
  | .decErrinfo => Sys2Proof.Machine.execDecErrinfo s
  | .decBody k => Sys2Proof.Machine.execDecBody k s
  | .rdCtrl rewind clrErr => Sys2Proof.Machine.execRdCtrl rewind clrErr s
  | .rdCode => Sys2Proof.Machine.execRdCode s
  | .rdGet8 => Sys2Proof.Machine.execRdGet8 s
  | .rdGet16 => Sys2Proof.Machine.execRdGet16 s
  | .rdGet32 => Sys2Proof.Machine.execRdGet32 s
  | .rdStatus => Sys2Proof.Machine.execRdStatus s
  | .tqSet ticks => Sys2Proof.Machine.execTqSet ticks s
  | .tqGet => Sys2Proof.Machine.execTqGet s
  | .tqResult => Sys2Proof.Machine.execTqResult s
  | .mvSetdx value => Sys2Proof.Machine.execMvSetdx value s
  | .mvGetdx => Sys2Proof.Machine.execMvGetdx s
  | .mvSetdy value => Sys2Proof.Machine.execMvSetdy value s
  | .mvGetdy => Sys2Proof.Machine.execMvGetdy s
  | .mvSetdz value => Sys2Proof.Machine.execMvSetdz value s
  | .mvGetdz => Sys2Proof.Machine.execMvGetdz s
  | .mvSetfeed value => Sys2Proof.Machine.execMvSetfeed value s
  | .mvGetfeed => Sys2Proof.Machine.execMvGetfeed s
  | .mvK => Sys2Proof.Machine.execMvK s
  | .mvCtrl plan clrErr => Sys2Proof.Machine.execMvCtrl plan clrErr s
  | .mvStatus => Sys2Proof.Machine.execMvStatus s
  | .mvTicks => Sys2Proof.Machine.execMvTicks s
  | .mvTimer => Sys2Proof.Machine.execMvTimer s
  | .mvNseg => Sys2Proof.Machine.execMvNseg s
  | .mvSegleft => Sys2Proof.Machine.execMvSegleft s
  | .mvSegdx => Sys2Proof.Machine.execMvSegdx s
  | .mvSegdy => Sys2Proof.Machine.execMvSegdy s
  | .mvSegdz => Sys2Proof.Machine.execMvSegdz s
  | .mvSegindex => Sys2Proof.Machine.execMvSegindex s
  | .mvMaster => Sys2Proof.Machine.execMvMaster s
  | .mvNext => Sys2Proof.Machine.execMvNext s

end Sys2Proof.Machine
end

