-- ==== Sys2Proof/Machine/Bus.lean ====
section
/-!
DEFINITION. The bus port: how the block takes one access (spec/60_exceptions.md R261) and one host event.
-/

namespace Sys2Proof.Machine

/-- One access (R261): the generic checks, then the operation that the access word selects. A check that fails raises
its BusError, a defined response after which the block goes on (R277). -/
def performAccess (a : Access) (s : State) : Host.Outcome State Fault Refusal :=
  match decode a with
  | .error cause => .next (s.raise a.dir a.off cause)
  | .ok i => exec i s

/-- One host event: an access, or power-on (R290). -/
def performEvent (e : HostEvent) (s : State) : Host.Outcome State Fault Refusal :=
  match e with
  | .access a => performAccess a s
  | .powerOn => .next s.powerOn

/-- The oldest host event and the state that has taken it from the port; none when the host has issued nothing more. -/
def takeEvent (s : State) : Option (HostEvent × State) :=
  match s.pending with
  | [] => none
  | e :: rest => some (e, { s with pending := rest })

/-- The state with an access as the next one the block receives. -/
def presentAccess (a : Access) (s : State) : State := { s with pending := .access a :: s.pending }

end Sys2Proof.Machine
end

