-- ==== Sys2Proof/Machine/Step.lean ====
section
/-!
DEFINITION. One step of the block. "Each access is one step of the block's state machine; the block takes no step
without an access, except reset" (spec/20_memory.md R60): with no event left, the state stands (log entry 6).
-/

namespace Sys2Proof.Machine

/-- One step: the oldest event of the port is taken and performed. -/
def step (s : State) : Host.Outcome State Fault Refusal :=
  match takeEvent s with
  | none => .next s
  | some (e, s') => performEvent e s'

/-- The state whose next access is the one with bits `w` of a table row, so that `step` performs it. -/
def State.withFetchWord (s : State) (nbits w : Nat) : State := presentAccess (Access.ofBits (w % 2 ^ nbits)) s

end Sys2Proof.Machine
end

