-- ==== Sys2Proof/Safety.lean ====
section
/-!
DEFINITION. What claims about runs speak of: the invariant that the rules of spec/10_state.md and
spec/44_segmenter.md give every reachable state, a run with no bus error, and the host programs that a run performs.
-/

namespace Sys2Proof.Machine

/-! ## The invariant -/

/-- The encoder's invariant (10_state.md R29). -/
def Encoder.Inv (e : Encoder) : Prop :=
  e.buf.wf = true ∧ Memory.within Config.maxFrame e.buf = true ∧
  match e.state with
  | .idle => e.len = 0#8 ∧ e.crc = 0#8 ∧ ∀ i, e.buf.read i = 0#8
  | .opened =>
    2 ≤ e.len.toNat ∧ e.buf.read 0 = Config.sentinel ∧ e.buf.read 1 = 0#8 ∧
    e.crc = crc8 (e.buf.slice 2 e.len.toNat) ∧ ∀ i, 2 + e.len.toNat ≤ i → e.buf.read i = 0#8
  | .done =>
    2 ≤ e.len.toNat ∧ e.buf.read 0 = Config.sentinel ∧ e.buf.read 1 = e.len ∧
    e.buf.read (2 + e.len.toNat) = e.crc ∧ e.crc = crc8 (e.buf.slice 2 e.len.toNat) ∧
    ∀ i, 3 + e.len.toNat ≤ i → e.buf.read i = 0#8

/-- The decoder's frame in each phase (10_state.md R39). -/
def Decoder.FrameInv (d : Decoder) : Prop :=
  match d.phase with
  | .awaitSentinel | .awaitLength =>
    d.len = 0#8 ∧ d.count = 0#8 ∧ d.crc = 0#8 ∧ ∀ i, d.body.read i = 0#8
  | .awaitPayload =>
    d.count.toNat < d.len.toNat ∧ d.crc = crc8 (d.body.slice 0 d.count.toNat) ∧
    ∀ i, d.count.toNat ≤ i → d.body.read i = 0#8
  | .awaitCrc | .complete =>
    d.count = d.len ∧ d.crc = crc8 (d.body.slice 0 d.len.toNat) ∧
    ∀ i, d.len.toNat ≤ i → d.body.read i = 0#8

/-- The decoder's mismatch record: nothing is recorded exactly while the sticky flag is clear (R154, R155). -/
def Decoder.RecordInv (d : Decoder) : Prop :=
  if d.crcErr then d.mismatchCnt ≠ 0#16 ∧ d.rxCrc ≠ d.calcCrc
  else d.mismatchCnt = 0#16 ∧ d.rxCrc = 0#8 ∧ d.calcCrc = 0#8

/-- The decoder's invariant (10_state.md R39). -/
def Decoder.Inv (d : Decoder) : Prop :=
  d.body.wf = true ∧ Memory.within Config.bodySize d.body = true ∧ d.FrameInv ∧ d.RecordInv

/-- Where the reader's cursor stands while a body does: after the code byte, and past the body only when it is empty
of payload (43_reader.md R184). -/
def CursorInv (d : Decoder) (r : Reader) : Prop :=
  d.phase = .complete → 1 ≤ r.cursor.toNat ∧ (r.cursor = 1#8 ∨ r.cursor.toNat ≤ d.len.toNat)

/-- A segment register: a magnitude of at most 65535 (10_state.md R57). -/
def SegmentInRange (w : Word) : Prop := -65535 ≤ w.toInt ∧ w.toInt ≤ 65535

/-- What the planner's registers say of the plan as a whole (R55, R56, 44_segmenter.md R202, R203, R212). -/
def Planner.PlanInv (p : Planner) : Prop :=
  p.master.toNat ≤ 2 ^ 31 ∧
  p.nseg.toNat = segCount p.master.toNat ∧
  p.timer = timerWord (quantize p.ticks.toNat) ∧
  (p.ticksSat = true → p.ticks = 0xFFFFFFFF#32) ∧
  (p.master ≠ 0#32 ↔ p.planned = true ∧ p.zeroMove = false) ∧
  (p.zeroMove = true → p.planned = true) ∧
  (p.master = 0#32 → p.ticks = 0#32 ∧ p.ticksSat = false)

/-- How far the segments of the plan have come (10_state.md R57, R59; R206, R216). -/
def Planner.SegmentInv (p : Planner) : Prop :=
  p.segIndex.toNat + p.segLeft.toNat = p.nseg.toNat ∧
  p.segLeft.toNat = segCount p.remM ∧
  (p.segLeft ≠ 0#32 → p.remM + 65535 * p.segIndex.toNat = p.master.toNat) ∧
  masterSteps p.rem = p.remM ∧
  (p.segValid = true ↔ p.segIndex ≠ 0#32) ∧
  (p.segValid = false → p.seg = ⟨0#32, 0#32, 0#32⟩) ∧
  SegmentInRange p.seg.x ∧ SegmentInRange p.seg.y ∧ SegmentInRange p.seg.z

/-- The planner's invariant. -/
def Planner.Inv (p : Planner) : Prop := p.PlanInv ∧ p.SegmentInv

/-- A legal GLB_ERR: reserved bits 0, a cause of at most 8, and no record without a cause (10_state.md R19). -/
def ErrorRecordInv (w : Word) : Prop :=
  w.extractLsb' 5 11 = 0#11 ∧ w.extractLsb' 28 4 = 0#4 ∧ (w.extractLsb' 0 4).toNat ≤ 8 ∧
  (w.extractLsb' 0 4 = 0#4 → w = 0#32)

/-- The invariant of the block. -/
def State.Inv (s : State) : Prop :=
  ErrorRecordInv s.glbErr ∧ s.enc.Inv ∧ s.dec.Inv ∧ CursorInv s.dec s.rd ∧ s.mv.Inv

/-! ## Safe runs -/

/-- No error stands: "a claim about the GLB_ERR record and the sticky flags staying 0" (60_exceptions.md R277). -/
def State.ErrorFree (s : State) : Prop :=
  s.glbErr = 0#32 ∧ s.enc.overflow = false ∧ s.enc.seqErr = false ∧ s.dec.crcErr = false ∧
  s.rd.notReady = false ∧ s.rd.pastEnd = false ∧ s.mv.feedZero = false ∧ s.mv.seqErr = false

/-! ## Runs of host accesses -/

/-- `n` steps. -/
def run : Nat → State → Host.Outcome State Fault Refusal
  | 0, s => .next s
  | n + 1, s =>
    match step s with
    | .next t => run n t
    | .fault f => .fault f
    | .refused r => .refused r

/-- The state in which the host has issued the accesses of these operations, in this order, and nothing else. -/
def State.issue (s : State) (ops : List Instr) : State :=
  { s with pending := ops.map (fun i => .access (encode i)) }

/-- The operations performed one after the other, each an access through the bus port. -/
def perform (ops : List Instr) (s : State) : Host.Outcome State Fault Refusal := run ops.length (s.issue ops)

/-- DEC.FEED: one push for each byte (30_encoding.md R91). -/
def feed (bytes : List Byte) : List Instr := bytes.map Instr.decPush

/-- The frame of a body on the wire: sentinel, length, body, CRC trailer (30_encoding.md R84). -/
def wireFrame (body : List Byte) : List Byte :=
  [Config.sentinel, BitVec.ofNat 8 body.length] ++ body ++ [crc8 body]

/-- One field of a payload, with the width of the append and of the get that carry it (20_memory.md R64). -/
inductive Payload where
  | u8 (v : Byte)
  | u16 (v : Half)
  | u32 (v : Word)
  deriving DecidableEq, Repr

/-- The bytes of a field on the wire, least significant first (41_encoder.md R121 to R123). -/
def Payload.bytes : Payload → List Byte
  | .u8 v => [v]
  | .u16 v => [v.extractLsb' 0 8, v.extractLsb' 8 8]
  | .u32 v => [v.extractLsb' 0 8, v.extractLsb' 8 8, v.extractLsb' 16 8, v.extractLsb' 24 8]

/-- The append that adds a field. -/
def Payload.add : Payload → Instr
  | .u8 v => .encAdd8 v
  | .u16 v => .encAdd16 v
  | .u32 v => .encAdd32 v

/-- The get of a field's width. -/
def Payload.get : Payload → Instr
  | .u8 _ => .rdGet8
  | .u16 _ => .rdGet16
  | .u32 _ => .rdGet32

/-- The word a get returns for a field: zero-extended (43_reader.md R184). -/
def Payload.word : Payload → Word
  | .u8 v => v.setWidth 32
  | .u16 v => v.setWidth 32
  | .u32 v => v

/-- The bytes of a payload. -/
def payloadBytes (fields : List Payload) : List Byte := fields.flatMap Payload.bytes

/-- The operations that build a request frame (41_encoder.md R130). -/
def buildFrame (target command : Byte) (fields : List Payload) : List Instr :=
  .encBegin target command :: (fields.map Payload.add ++ [.encFinalize])

/-- Gets of the fields' widths, one after the other, return the fields (43_reader.md R187). -/
def ReadsBack : List Payload → State → Prop
  | [], _ => True
  | f :: rest, s => ∃ t, exec f.get s = .next t ∧ t.resp = .rdata f.word ∧ ReadsBack rest t

/-! ## Segments and checksums, as the rules' properties speak of them -/

/-- The segments that successive MV.NEXT give, in order, and the state they end in (44_segmenter.md R204). -/
def SegmentsFrom : List (PerAxis Word) → State → State → Prop
  | [], s, t => t = s
  | w :: rest, s, t => ∃ u, exec .mvNext s = .next u ∧ u.mv.seg = w ∧ SegmentsFrom rest u t

/-- The sum of one axis over a list of segments, as signed numbers. -/
def axisSum (axis : PerAxis Word → Word) (segs : List (PerAxis Word)) : Int :=
  (segs.map (fun w => (axis w).toInt)).sum

/-- The bit-serial form of the CRC update over `n` bits of `b` (40_crc.md R100). -/
def crc8BitSerial : Nat → Byte → Byte → Byte
  | 0, c, _ => c
  | n + 1, c, b =>
    let mix := (c ^^^ b).getLsbD 0
    crc8BitSerial n (if mix then (c >>> 1) ^^^ 0x8C#8 else c >>> 1) (b >>> 1)

/-! ## The units -/

/-- The unit whose register an operation accesses (spec/INDEX.md; 00_scope.md R1). -/
inductive BlockUnit where
  | system
  | crc
  | encoder
  | decoder
  | reader
  | quantizer
  | planner
  deriving DecidableEq, Repr

/-- The unit of each operation (30_encoding.md R83). -/
def unitOf : Instr → BlockUnit
  | .sysId | .sysVersion | .sysCtrl _ _ | .sysParam | .sysErr => .system
  | .crcCtrl _ | .crcUpdate _ | .crcValue => .crc
  | .encBegin _ _ | .encAdd8 _ | .encAdd16 _ | .encAdd32 _ | .encFinalize => .encoder
  | .encStatus | .encFramelen | .encCtrl _ _ | .encFrame _ => .encoder
  | .decCtrl _ _ | .decPush _ | .decStatus | .decErrinfo | .decBody _ => .decoder
  | .rdCtrl _ _ | .rdCode | .rdGet8 | .rdGet16 | .rdGet32 | .rdStatus => .reader
  | .tqSet _ | .tqGet | .tqResult => .quantizer
  | .mvSetdx _ | .mvGetdx | .mvSetdy _ | .mvGetdy | .mvSetdz _ | .mvGetdz => .planner
  | .mvSetfeed _ | .mvGetfeed | .mvK | .mvCtrl _ _ | .mvStatus | .mvTicks => .planner
  | .mvTimer | .mvNseg | .mvSegleft | .mvSegdx | .mvSegdy | .mvSegdz => .planner
  | .mvSegindex | .mvMaster | .mvNext => .planner

end Sys2Proof.Machine
end

