-- ==== Sys2Proof/Certificates/Slice0/Obligations.lean ====
section
/-!
DEFINITION. The statements for the provers. Each docstring names the rule of spec/ that the statement formalises, or
says that it is the model's own choice and names the log entry.
-/

open Sys2Proof Sys2Proof.Machine

/-! ## The bus: decoding, checks, steps -/

/-- Decoding the access of a well-formed operation gives the operation back, with every operand (R83, R91). -/
def Obligations.DecodeEncodeWellFormed : Prop :=
  ∀ i : Instr, i.wf = true → decode (encode i) = .ok i

/-- An access that decodes gives a well-formed operation, whose own access has the same size and access word (R80). -/
def Obligations.DecodedAccessReencodes : Prop :=
  ∀ (a : Access) (i : Instr), decode a = .ok i →
    i.wf = true ∧ (encode i).word = a.word ∧ (encode i).size = a.size

/-- R80: "Exactly one row matches each legal access", and none any other aligned 4-byte access. -/
def Obligations.OneRowPerLegalAccess : Prop :=
  ∀ a : Access, a.size = 4 → a.off.toNat % 4 = 0 →
    (opTable.filter (fun r => r.accepts a.word)).length =
      if (offsetKind a.off).any (fun kind => kind.allows a.dir) then 1 else 0

/-- R20's register map and R66: which offsets a 4-byte read and a 4-byte write reach, written out. -/
def Obligations.LegalOffsetsAreTheMaps : Prop :=
  ∀ (off : Offset) (w : Word),
    ((∃ i, decode ⟨.read, off, 4, w⟩ = .ok i) ↔
      off.toNat % 4 = 0 ∧
      (off.toNat ∈ [0x000, 0x004, 0x00C, 0x018, 0x034, 0x038, 0x048, 0x04C, 0x064, 0x068, 0x06C, 0x070, 0x074] ∨
       off.toNat ∈ [0x080, 0x084, 0x090, 0x094, 0x098, 0x09C, 0x0A0, 0x0A8, 0x0AC, 0x0B0, 0x0B4, 0x0B8, 0x0BC] ∨
       off.toNat ∈ [0x0C0, 0x0C4, 0x0C8, 0x0CC, 0x0F0] ∨
       (0x400 ≤ off.toNat ∧ off.toNat ≤ 0xBFF))) ∧
    ((∃ i, decode ⟨.write, off, 4, w⟩ = .ok i) ↔
      off.toNat ∈ [0x008, 0x010, 0x014, 0x020, 0x024, 0x028, 0x02C, 0x030, 0x03C, 0x040, 0x044, 0x060] ∨
      off.toNat ∈ [0x080, 0x090, 0x094, 0x098, 0x09C, 0x0A4, 0x0D0])

/-- R65: an aligned 4-byte access to an offset of the list of unmapped offsets raises BusError(UNMAPPED), "and has no
effect other than the GLB_ERR record"; every other aligned offset is mapped. -/
def Obligations.UnmappedOffsetsRaise : Prop :=
  ∀ (a : Access) (s : State), a.size = 4 → a.off.toNat % 4 = 0 →
    if a.off.toNat = 0x01C ∨ (0x050 ≤ a.off.toNat ∧ a.off.toNat ≤ 0x05C) ∨
       (0x078 ≤ a.off.toNat ∧ a.off.toNat ≤ 0x07C) ∨ (0x088 ≤ a.off.toNat ∧ a.off.toNat ≤ 0x08C) ∨
       (0x0D4 ≤ a.off.toNat ∧ a.off.toNat ≤ 0x0EC) ∨ (0x0F4 ≤ a.off.toNat ∧ a.off.toNat ≤ 0x3FC) ∨
       (0xC00 ≤ a.off.toNat ∧ a.off.toNat ≤ 0xFFC)
    then performAccess a s =
      .next { s with glbErr := errorRecord a.dir a.off .unmapped, resp := .busError a.dir .unmapped }
    else decode a ≠ .error .unmapped

/-- R61, R62, R66: any size but 4 raises SIZE, then a misaligned offset ALIGN, then a mapped offset in the wrong
direction DIRECTION; none has an effect other than the GLB_ERR record. -/
def Obligations.SizeAlignDirectionRaise : Prop :=
  ∀ (a : Access) (s : State),
    (a.size ≠ 4 → performAccess a s =
      .next { s with glbErr := errorRecord a.dir a.off .size, resp := .busError a.dir .size }) ∧
    (a.size = 4 → a.off.toNat % 4 ≠ 0 → performAccess a s =
      .next { s with glbErr := errorRecord a.dir a.off .align, resp := .busError a.dir .align }) ∧
    (∀ kind, a.size = 4 → a.off.toNat % 4 = 0 → offsetKind a.off = some kind → kind.allows a.dir = false →
      performAccess a s =
        .next { s with glbErr := errorRecord a.dir a.off .direction, resp := .busError a.dir .direction })

/-- R260 with the layout of R19 and the codes of R263: what raising a bus error writes, and that it writes nothing
else. -/
def Obligations.BusErrorWritesTheRecord : Prop :=
  ∀ (s : State) (d : Dir) (off : Offset) (c : Cause),
    s.raise d off c = { s with glbErr := (s.raise d off c).glbErr, resp := .busError d c } ∧
    (s.raise d off c).glbErr.extractLsb' 0 4 =
      (match c with
       | .size => 1#4 | .align => 2#4 | .unmapped => 3#4 | .direction => 4#4
       | .sequence => 5#4 | .overflow => 6#4 | .notReady => 7#4 | .pastEnd => 8#4) ∧
    (s.raise d off c).glbErr.getLsbD 4 = (d == .write) ∧
    (s.raise d off c).glbErr.extractLsb' 5 11 = 0#11 ∧
    (s.raise d off c).glbErr.extractLsb' 16 12 = off ∧
    (s.raise d off c).glbErr.extractLsb' 28 4 = 0#4 ∧
    (d = .read → (s.raise d off c).resp.dataLines = some 0#32)

/-- R260, R67: an access that ends in a bus error records itself in GLB_ERR and changes nothing else but at most one
sticky flag. -/
def Obligations.FailedAccessChangesOnlyErrorState : Prop :=
  ∀ (a : Access) (s t : State) (d : Dir) (c : Cause),
    performAccess a s = .next t → t.resp = .busError d c →
    d = a.dir ∧ t.glbErr = errorRecord a.dir a.off c ∧
    (t = { s with glbErr := t.glbErr, resp := t.resp } ∨
     t = { s with glbErr := t.glbErr, resp := t.resp, enc := { s.enc with seqErr := true } } ∨
     t = { s with glbErr := t.glbErr, resp := t.resp, enc := { s.enc with overflow := true } } ∨
     t = { s with glbErr := t.glbErr, resp := t.resp, rd := { s.rd with notReady := true } } ∨
     t = { s with glbErr := t.glbErr, resp := t.resp, rd := { s.rd with pastEnd := true } } ∨
     t = { s with glbErr := t.glbErr, resp := t.resp, mv := { s.mv with seqErr := true } })

/-- R262 for writes: "bits outside a register's defined fields are ignored, and a nonzero value there is not an
error". -/
def Obligations.ReservedWriteBitsIgnored : Prop :=
  ∀ (off : Offset) (size : Nat) (w : Word),
    let fields : Word :=
      if off.toNat ∈ [0x008, 0x03C, 0x040, 0x060, 0x0A4] then 0x00000003#32
      else if off.toNat = 0x010 then 0x00000001#32
      else if off.toNat ∈ [0x014, 0x024, 0x044] then 0x000000FF#32
      else if off.toNat ∈ [0x020, 0x028] then 0x0000FFFF#32
      else if off.toNat ∈ [0x030, 0x0D0] then 0x00000000#32
      else 0xFFFFFFFF#32
    decode ⟨.write, off, size, w &&& fields⟩ = decode ⟨.write, off, size, w⟩

/-- R262 for reads: bits outside a register's defined fields read as 0, in every state that meets the invariant. -/
def Obligations.ReservedReadBitsAreZero : Prop :=
  ∀ (i : Instr) (s t : State) (v : Word), s.Inv → exec i s = .next t → t.resp = .rdata v →
    v &&& ~~~(match i with
      | .sysParam => 0x0007FFFF#32
      | .sysErr => 0x0FFF001F#32
      | .crcValue => 0x000000FF#32
      | .encStatus => 0x00FFFF0F#32
      | .encFramelen => 0x000001FF#32
      | .decStatus => 0xFFFFFF17#32
      | .rdCode => 0x000001FF#32
      | .rdGet8 => 0x000000FF#32
      | .rdGet16 => 0x0000FFFF#32
      | .rdStatus => 0x0007FFFF#32
      | .tqResult => 0x0107FFFF#32
      | .mvStatus => 0x0000003F#32
      | .mvTimer => 0x0107FFFF#32
      | _ => 0xFFFFFFFF#32) = 0#32

/-- R60: a step takes the oldest access of the host; when the access decodes, the step is `exec` of the operation in
the state whose bus port has let the access go. -/
def Obligations.StepPerformsTheDecodedAccess : Prop :=
  ∀ (s : State) (a : Access) (rest : List HostEvent) (i : Instr),
    s.pending = .access a :: rest → decode a = .ok i →
    step s = exec i { s with pending := rest }

/-- R60, R290 and the model's own choice (log entry 6): with no access the block takes no step, and its state stands;
power-on gives the reset state. -/
def Obligations.StepWithoutAnAccess : Prop :=
  ∀ (s : State) (rest : List HostEvent),
    (s.pending = [] → step s = .next s) ∧
    (s.pending = .powerOn :: rest → step s = .next { State.reset with pending := rest })

/-- Log entry 2, the model's own layout: a table row's bits, placed at the bus port, are the operation that the next
step performs. -/
def Obligations.PlacedWordIsPerformed : Prop :=
  ∀ (s : State) (nbits w : Nat) (i : Instr),
    decodeTableWord nbits w = some i → step (s.withFetchWord nbits w) = exec i s

/-- R83: access words of each unit decode to the operations that the opcode map names. Where a sample has a data word, its
place in bits 47 to 16 is the model's own choice (log entry 2). -/
def Obligations.EncodingSamples : Prop :=
  decodeTableWord 16 0x0000 = some .sysId ∧
  decodeTableWord 48 0x000000021008 = some (.sysCtrl false true) ∧
  decodeTableWord 48 0x000000311014 = some (.crcUpdate 0x31#8) ∧
  decodeTableWord 48 0x00000A011020 = some (.encBegin 0x01#8 0x0A#8) ∧
  decodeTableWord 48 0xDEADBEEF102C = some (.encAdd32 0xDEADBEEF#32) ∧
  decodeTableWord 16 0x0504 = some (.encFrame 65) ∧
  decodeTableWord 48 0x000000D51044 = some (.decPush 0xD5#8) ∧
  decodeTableWord 16 0x08FC = some (.decBody 63) ∧
  decodeTableWord 16 0x006C = some .rdGet16 ∧
  decodeTableWord 48 0x000100001080 = some (.tqSet 0x00010000#32) ∧
  decodeTableWord 48 0xFFFE79601094 = some (.mvSetdy 0xFFFE7960#32) ∧
  decodeTableWord 16 0x10D0 = some .mvNext ∧
  decodeTableWord 16 0x001C = none ∧ decodeTableWord 16 0x1000 = none ∧ decodeTableWord 16 0x0402 = none

/-! ## The whole machine -/

/-- R277: "every access completes": no operation and no step ends in a fault or a refusal. -/
def Obligations.EveryStepCompletes : Prop :=
  (∀ (i : Instr) (s : State), ∃ t, exec i s = .next t) ∧ (∀ s : State, ∃ t, step s = .next t)

/-- R72: "an access to one unit changes no other unit's state", but for the cursor that entering Complete sets, and for
the soft reset. The accesses still to come are never touched. -/
def Obligations.UnitsAreIsolated : Prop :=
  ∀ (i : Instr) (s t : State), exec i s = .next t →
    t.pending = s.pending ∧
    (∀ clrErr, i = .sysCtrl true clrErr →
      t = { State.reset with pending := s.pending, resp := .ok }) ∧
    ((∀ clrErr, i ≠ .sysCtrl true clrErr) →
      (unitOf i ≠ .crc → t.crcAcc = s.crcAcc) ∧
      (unitOf i ≠ .encoder → t.enc = s.enc) ∧
      (unitOf i ≠ .decoder → t.dec = s.dec) ∧
      (unitOf i ≠ .quantizer → t.tqTicks = s.tqTicks) ∧
      (unitOf i ≠ .planner → t.mv = s.mv) ∧
      (unitOf i ≠ .reader →
        t.rd = if unitOf i = .decoder ∧ s.dec.phase ≠ .complete ∧ t.dec.phase = .complete
          then { s.rd with cursor := 1#8 } else s.rd))

/-- R68: every read but the three gets "is idempotent: repeating it with no access between returns the same value and
changes nothing". -/
def Obligations.ReadsAreIdempotent : Prop :=
  ∀ (i : Instr) (s t : State), (encode i).dir = .read → i ≠ .rdGet8 → i ≠ .rdGet16 → i ≠ .rdGet32 →
    exec i s = .next t → exec i t = .next t

/-- R264: a sticky flag, the mismatch count and the error record are cleared only by the CLR_ERR bit of their unit or
by a reset. -/
def Obligations.StickyFlagsStay : Prop :=
  ∀ (i : Instr) (s t : State), exec i s = .next t → (∀ clrErr, i ≠ .sysCtrl true clrErr) →
    ((∀ abort, i ≠ .encCtrl true abort) →
      (s.enc.overflow = true → t.enc.overflow = true) ∧ (s.enc.seqErr = true → t.enc.seqErr = true)) ∧
    ((∀ reset, i ≠ .decCtrl reset true) →
      (s.dec.crcErr = true → t.dec.crcErr = true) ∧ s.dec.mismatchCnt.toNat ≤ t.dec.mismatchCnt.toNat) ∧
    ((∀ rewind, i ≠ .rdCtrl rewind true) →
      (s.rd.notReady = true → t.rd.notReady = true) ∧ (s.rd.pastEnd = true → t.rd.pastEnd = true)) ∧
    ((∀ plan, i ≠ .mvCtrl plan true) →
      (s.mv.feedZero = true → t.mv.feedZero = true) ∧ (s.mv.seqErr = true → t.mv.seqErr = true)) ∧
    (i ≠ .sysCtrl false true → s.glbErr ≠ 0#32 → t.glbErr ≠ 0#32)

/-- Every step keeps the invariant of 10_state.md R19, R29, R39, R57, R59, 43_reader.md R184 and 44_segmenter.md R206,
R212, R216. -/
def Obligations.StepKeepsTheInvariant : Prop :=
  ∀ s t : State, s.Inv → step s = .next t → t.Inv

/-- The reset state meets the invariant. -/
def Obligations.ResetMeetsTheInvariant : Prop := State.reset.Inv

/-- The canonical form of a buffer (the model's own, log entry 5): two canonical buffers with the same bytes are the
same data. -/
def Obligations.CanonicalBuffersAreEqual : Prop :=
  ∀ m m' : Memory, m.wf = true → m'.wf = true → (∀ a, m.read a = m'.read a) → m = m'

/-! ## System operations -/

/-- R290: the power-on values of every field, the four constants, and that power-on, from any state, gives them. -/
def Obligations.PowerOnValues : Prop :=
  State.reset.glbErr = 0#32 ∧ State.reset.crcAcc = 0#8 ∧
  State.reset.enc.state = .idle ∧ (∀ i, State.reset.enc.buf.read i = 0#8) ∧
  State.reset.enc.len = 0#8 ∧ State.reset.enc.crc = 0#8 ∧
  State.reset.enc.overflow = false ∧ State.reset.enc.seqErr = false ∧
  encStatusWord State.reset.enc = 0#32 ∧ encFrameLen State.reset.enc = 0 ∧
  State.reset.dec.phase = .awaitSentinel ∧ State.reset.dec.len = 0#8 ∧ State.reset.dec.count = 0#8 ∧
  State.reset.dec.crc = 0#8 ∧ (∀ i, State.reset.dec.body.read i = 0#8) ∧
  State.reset.dec.crcErr = false ∧ State.reset.dec.rxCrc = 0#8 ∧ State.reset.dec.calcCrc = 0#8 ∧
  State.reset.dec.mismatchCnt = 0#16 ∧
  decStatusWord State.reset.dec = 0#32 ∧ decErrinfoWord State.reset.dec = 0#32 ∧
  State.reset.rd = ⟨0#8, false, false⟩ ∧ rdStatusWord State.reset.dec State.reset.rd = 0#32 ∧
  State.reset.tqTicks = 0#32 ∧ timerWord (quantize State.reset.tqTicks.toNat) = 0#32 ∧
  State.reset.mv.delta = ⟨0#32, 0#32, 0#32⟩ ∧ State.reset.mv.feed = 0#32 ∧ mvStatusWord State.reset.mv = 0#32 ∧
  State.reset.mv.ticks = 0#32 ∧ State.reset.mv.timer = 0#32 ∧ State.reset.mv.nseg = 0#32 ∧
  State.reset.mv.segLeft = 0#32 ∧ State.reset.mv.master = 0#32 ∧
  State.reset.mv.seg = ⟨0#32, 0#32, 0#32⟩ ∧ State.reset.mv.segIndex = 0#32 ∧
  State.reset.mv.sgn = ⟨.plus, .plus, .plus⟩ ∧ State.reset.mv.rem = ⟨0, 0, 0⟩ ∧ State.reset.mv.remM = 0 ∧
  exec .sysId State.reset = .next { State.reset with resp := .rdata 0x43504752#32 } ∧
  exec .sysVersion State.reset = .next { State.reset with resp := .rdata 0x00010000#32 } ∧
  exec .sysParam State.reset = .next { State.reset with resp := .rdata (paramWord Config.okCode) } ∧
  exec .mvK State.reset = .next { State.reset with resp := .rdata (BitVec.ofNat 32 Config.clock) } ∧
  ∀ s : State, performEvent .powerOn s = .next { State.reset with pending := s.pending }

/-- R252, R291: the control register from its data word; a soft reset gives every field its power-on value, CLR_ERR
clears the error record, and 0 does nothing. -/
def Obligations.SystemControl : Prop :=
  ∀ (s : State) (w : Word) (clrErr : Bool),
    decode ⟨.write, 0x008#12, 4, w⟩ = .ok (.sysCtrl (w.getLsbD 0) (w.getLsbD 1)) ∧
    exec (.sysCtrl true clrErr) s = .next { State.reset with pending := s.pending, resp := .ok } ∧
    exec (.sysCtrl false true) s = .next { s with glbErr := 0#32, resp := .ok } ∧
    exec (.sysCtrl false false) s = .next { s with resp := .ok }

/-- R250, R251, R253, R254: identity, revision, parameters and the error record, read with no side effect. -/
def Obligations.SystemReads : Prop :=
  ∀ (s : State) (w : Word),
    decode ⟨.read, 0x000#12, 4, w⟩ = .ok .sysId ∧ decode ⟨.read, 0x004#12, 4, w⟩ = .ok .sysVersion ∧
    decode ⟨.read, 0x00C#12, 4, w⟩ = .ok .sysParam ∧ decode ⟨.read, 0x0F0#12, 4, w⟩ = .ok .sysErr ∧
    exec .sysId s = .next { s with resp := .rdata 0x43504752#32 } ∧
    exec .sysVersion s = .next { s with resp := .rdata 0x00010000#32 } ∧
    exec .sysErr s = .next { s with resp := .rdata s.glbErr } ∧
    ∃ v, exec .sysParam s = .next { s with resp := .rdata v } ∧
      v.extractLsb' 0 8 = 0xD5#8 ∧ v.extractLsb' 8 8 = Config.okCode ∧ v.extractLsb' 16 3 = 4#3 ∧
      v.extractLsb' 19 13 = 0#13

/-! ## Checksum engine -/

/-- R101, R102, R103: the operations of the CRC unit, from their data words. -/
def Obligations.ChecksumOperations : Prop :=
  ∀ (s : State) (w : Word),
    decode ⟨.write, 0x014#12, 4, w⟩ = .ok (.crcUpdate (w.extractLsb' 0 8)) ∧
    decode ⟨.write, 0x010#12, 4, w⟩ = .ok (.crcCtrl (w.getLsbD 0)) ∧
    decode ⟨.read, 0x018#12, 4, w⟩ = .ok .crcValue ∧
    (∀ b, exec (.crcUpdate b) s = .next { s with crcAcc := crc8Update s.crcAcc b, resp := .ok }) ∧
    exec (.crcCtrl true) s = .next { s with crcAcc := 0x00#8, resp := .ok } ∧
    exec (.crcCtrl false) s = .next { s with resp := .ok } ∧
    exec .crcValue s = .next { s with resp := .rdata (s.crcAcc.setWidth 32) }

/-- R100: the update is XOR and then eight conditional shifts, the bit-serial form gives the same result, and the check
value of "123456789" is 0xA1. -/
def Obligations.CrcUpdateHasBothForms : Prop :=
  ∀ c b : Byte,
    crc8Update c b =
      (fun x : Byte => if x.getLsbD 0 then (x >>> 1) ^^^ 0x8C#8 else x >>> 1)^[8] (c ^^^ b) ∧
    crc8Update c b = crc8BitSerial 8 c b ∧
    crc8 [0x31#8, 0x32#8, 0x33#8, 0x34#8, 0x35#8, 0x36#8, 0x37#8, 0x38#8, 0x39#8] = 0xA1#8

/-- R104: the fold, its split (a), the zero sequence (b), the table form (c) and the zero residue (d). -/
def Obligations.CrcOfASequence : Prop :=
  ∀ u v : List Byte,
    crc8 u = u.foldl crc8Update 0x00#8 ∧
    crc8 (u ++ v) = v.foldl crc8Update (crc8 u) ∧
    ((∀ b ∈ u, b = 0x00#8) → crc8 u = 0x00#8) ∧
    (∀ c b : Byte, crc8Update c b = crc8Update 0x00#8 (c ^^^ b)) ∧
    crc8 (u ++ [crc8 u]) = 0x00#8

/-- R160 (e): changing one byte of a sequence changes its CRC. -/
def Obligations.CrcDetectsOneChangedByte : Prop :=
  ∀ (u v : List Byte) (b b' : Byte), b ≠ b' → crc8 (u ++ b :: v) ≠ crc8 (u ++ b' :: v)

/-! ## Packet encoder -/

/-- R120: BEGIN in every state. Every byte of the buffer is given; the sticky bits and all else stand. -/
def Obligations.EncoderBegin : Prop :=
  ∀ (s : State) (w : Word) (target command : Byte),
    decode ⟨.write, 0x020#12, 4, w⟩ = .ok (.encBegin (w.extractLsb' 0 8) (w.extractLsb' 8 8)) ∧
    ∃ t, exec (.encBegin target command) s = .next t ∧
      t = { s with
        resp := .ok,
        enc := { s.enc with
          state := .opened, len := 2#8, crc := crc8 [target, command], buf := t.enc.buf } } ∧
      ∀ a, t.enc.buf.read a =
        if a = 0 then 0xD5#8 else if a = 2 then target else if a = 3 then command else 0x00#8

/-- R129, R121, R122, R123: an append. Outside OPEN it raises SEQUENCE; in OPEN, when its bytes do not all fit, OVERFLOW,
and none is appended; otherwise the operand's bytes go in least significant first, every other byte of the buffer stands,
and nothing else changes but the length, the CRC and the response. -/
def Obligations.EncoderAppends : Prop :=
  ∀ (s : State) (w : Word) (i : Instr) (off : Offset) (bytes : List Byte),
    decode ⟨.write, 0x024#12, 4, w⟩ = .ok (.encAdd8 (w.extractLsb' 0 8)) ∧
    decode ⟨.write, 0x028#12, 4, w⟩ = .ok (.encAdd16 (w.extractLsb' 0 16)) ∧
    decode ⟨.write, 0x02C#12, 4, w⟩ = .ok (.encAdd32 w) ∧
    (((∃ v, i = .encAdd8 v ∧ off = 0x024#12 ∧ bytes = [v]) ∨
      (∃ v, i = .encAdd16 v ∧ off = 0x028#12 ∧ bytes = [v.extractLsb' 0 8, v.extractLsb' 8 8]) ∨
      (∃ v, i = .encAdd32 v ∧ off = 0x02C#12 ∧
        bytes = [v.extractLsb' 0 8, v.extractLsb' 8 8, v.extractLsb' 16 8, v.extractLsb' 24 8])) →
     (s.enc.state ≠ .opened → exec i s =
       .next { s with
         enc := { s.enc with seqErr := true },
         glbErr := errorRecord .write off .sequence, resp := .busError .write .sequence }) ∧
     (s.enc.state = .opened → s.enc.len.toNat + bytes.length > 255 → exec i s =
       .next { s with
         enc := { s.enc with overflow := true },
         glbErr := errorRecord .write off .overflow, resp := .busError .write .overflow }) ∧
     (s.enc.Inv → s.enc.state = .opened → s.enc.len.toNat + bytes.length ≤ 255 →
       ∃ t, exec i s = .next t ∧
         t = { s with
           resp := .ok,
           enc := { s.enc with
             len := t.enc.len, crc := bytes.foldl crc8Update s.enc.crc, buf := t.enc.buf } } ∧
         t.enc.len.toNat = s.enc.len.toNat + bytes.length ∧
         ∀ a, t.enc.buf.read a =
           if 2 + s.enc.len.toNat ≤ a then
             (bytes[a - (2 + s.enc.len.toNat)]?).getD (s.enc.buf.read a)
           else s.enc.buf.read a))

/-- R124: FINALIZE of an open frame writes the length and the trailer, every other byte standing; outside OPEN it
raises SEQUENCE. The data word is ignored. -/
def Obligations.EncoderFinalize : Prop :=
  ∀ (s : State) (w : Word),
    decode ⟨.write, 0x030#12, 4, w⟩ = .ok .encFinalize ∧
    (s.enc.Inv → s.enc.state = .opened →
      ∃ t, exec .encFinalize s = .next t ∧
        t = { s with resp := .ok, enc := { s.enc with state := .done, buf := t.enc.buf } } ∧
        encFrameLen t.enc = s.enc.len.toNat + 3 ∧
        ∀ a, t.enc.buf.read a =
          if a = 2 + s.enc.len.toNat then s.enc.crc
          else if a = 1 then s.enc.len else s.enc.buf.read a) ∧
    (s.enc.state ≠ .opened → exec .encFinalize s =
      .next { s with
        enc := { s.enc with seqErr := true },
        glbErr := errorRecord .write 0x030#12 .sequence, resp := .busError .write .sequence })

/-- R126: CLR_ERR clears the two sticky bits, ABORT returns to IDLE with a zero buffer and leaves them, and neither
does what the other does. -/
def Obligations.EncoderControl : Prop :=
  ∀ (s : State) (w : Word) (clrErr : Bool),
    decode ⟨.write, 0x03C#12, 4, w⟩ = .ok (.encCtrl (w.getLsbD 0) (w.getLsbD 1)) ∧
    exec (.encCtrl clrErr false) s =
      .next { s with
        resp := .ok,
        enc := { s.enc with overflow := s.enc.overflow && !clrErr, seqErr := s.enc.seqErr && !clrErr } } ∧
    ∃ t, exec (.encCtrl clrErr true) s = .next t ∧
      t = { s with
        resp := .ok,
        enc := { s.enc with
          overflow := s.enc.overflow && !clrErr, seqErr := s.enc.seqErr && !clrErr,
          state := .idle, len := 0#8, crc := 0x00#8, buf := t.enc.buf } } ∧
      ∀ a, t.enc.buf.read a = 0x00#8

/-- R127, R128, with the layouts of R35 and R36: the encoder's status reads change nothing. -/
def Obligations.EncoderStatusReads : Prop :=
  ∀ (s : State) (w : Word),
    decode ⟨.read, 0x034#12, 4, w⟩ = .ok .encStatus ∧ decode ⟨.read, 0x038#12, 4, w⟩ = .ok .encFramelen ∧
    (∃ v, exec .encStatus s = .next { s with resp := .rdata v } ∧
      v.extractLsb' 0 2 = (match s.enc.state with | .idle => 0#2 | .opened => 1#2 | .done => 2#2) ∧
      v.getLsbD 2 = s.enc.overflow ∧ v.getLsbD 3 = s.enc.seqErr ∧ v.extractLsb' 4 4 = 0#4 ∧
      v.extractLsb' 8 8 = s.enc.len ∧ v.extractLsb' 16 8 = s.enc.crc ∧ v.extractLsb' 24 8 = 0#8) ∧
    (∃ v, exec .encFramelen s = .next { s with resp := .rdata v } ∧
      v.toNat = (match s.enc.state with
        | .idle => 0 | .opened => 2 + s.enc.len.toNat | .done => 3 + s.enc.len.toNat))

/-- R125, R38: word `k` of the frame window holds bytes `4k .. 4k+3` of the frame, 0x00 past its end; reading changes
nothing. -/
def Obligations.FrameWindowReads : Prop :=
  ∀ (s : State) (w : Word) (off : Offset) (k : Nat),
    (off.toNat % 4 = 0 → 0x400 ≤ off.toNat → off.toNat ≤ 0x7FC →
      decode ⟨.read, off, 4, w⟩ = .ok (.encFrame ((off.toNat - 0x400) / 4))) ∧
    ∃ v, exec (.encFrame k) s = .next { s with resp := .rdata v } ∧
      ∀ j < 4, v.extractLsb' (8 * j) 8 =
        if 4 * k + j < encFrameLen s.enc then s.enc.buf.read (4 * k + j) else 0x00#8

/-- R130 (d): no operation but BEGIN, the appends, FINALIZE, ABORT and the soft reset changes a byte of the frame
buffer. -/
def Obligations.FrameBufferWriters : Prop :=
  ∀ (i : Instr) (s t : State), exec i s = .next t →
    (match i with
     | .encBegin _ _ | .encAdd8 _ | .encAdd16 _ | .encAdd32 _ | .encFinalize => False
     | .encCtrl _ abort => abort = false
     | .sysCtrl softReset _ => softReset = false
     | _ => True) →
    ∀ a, t.enc.buf.read a = s.enc.buf.read a

/-- R130 (a), (b): begin, appends of a payload of at most 253 bytes in any mix of widths, and finalize give exactly the
wire frame, from any state; no other unit changes, and no error is recorded. -/
def Obligations.BuiltFrameIsTheWireFrame : Prop :=
  ∀ (s : State) (target command : Byte) (fields : List Payload), (payloadBytes fields).length ≤ 253 →
    ∃ t, perform (buildFrame target command fields) s = .next t ∧
      t = { s with resp := .ok, pending := [], enc := t.enc } ∧
      t.enc.state = .done ∧ t.enc.overflow = s.enc.overflow ∧ t.enc.seqErr = s.enc.seqErr ∧
      encFrameLen t.enc = 5 + (payloadBytes fields).length ∧
      t.enc.buf.slice 0 (encFrameLen t.enc) =
        [0xD5#8, BitVec.ofNat 8 (2 + (payloadBytes fields).length), target, command] ++ payloadBytes fields ++
          [crc8 ([target, command] ++ payloadBytes fields)] ∧
      crc8 (t.enc.buf.slice 2 (encFrameLen t.enc - 2)) = 0x00#8 ∧
      ∀ a, encFrameLen t.enc ≤ a → t.enc.buf.read a = 0x00#8

/-! ## Packet decoder -/

/-- R150 to R154: the push of one byte in each phase. A push never raises an error, and changes no other unit but the
reader's cursor. -/
def Obligations.DecoderPush : Prop :=
  ∀ (s : State) (w : Word) (b : Byte),
    decode ⟨.write, 0x044#12, 4, w⟩ = .ok (.decPush (w.extractLsb' 0 8)) ∧
    (s.dec.phase = .awaitSentinel → exec (.decPush b) s =
      .next { s with
        resp := .ok,
        dec := { s.dec with phase := if b = 0xD5#8 then .awaitLength else .awaitSentinel } }) ∧
    (s.dec.phase = .complete → exec (.decPush b) s =
      .next { s with
        resp := .ok,
        dec := { s.dec with
          phase := if b = 0xD5#8 then .awaitLength else .awaitSentinel,
          len := 0#8, count := 0#8, crc := 0x00#8, body := [] } }) ∧
    (s.dec.phase = .awaitLength → exec (.decPush b) s =
      .next { s with
        resp := .ok,
        dec := { s.dec with
          phase := if b = 0#8 then .awaitCrc else .awaitPayload,
          len := b, count := 0#8, crc := 0x00#8, body := [] } }) ∧
    (s.dec.phase = .awaitPayload → s.dec.Inv → ∃ t, exec (.decPush b) s = .next t ∧
      t = { s with
        resp := .ok,
        dec := { s.dec with
          phase := if s.dec.count.toNat + 1 = s.dec.len.toNat then .awaitCrc else .awaitPayload,
          count := t.dec.count, crc := crc8Update s.dec.crc b, body := t.dec.body } } ∧
      t.dec.count.toNat = s.dec.count.toNat + 1 ∧
      ∀ a, t.dec.body.read a = if a = s.dec.count.toNat then b else s.dec.body.read a) ∧
    (s.dec.phase = .awaitCrc → b = s.dec.crc → exec (.decPush b) s =
      .next { s with
        resp := .ok, dec := { s.dec with phase := .complete }, rd := { s.rd with cursor := 1#8 } }) ∧
    (s.dec.phase = .awaitCrc → b ≠ s.dec.crc → exec (.decPush b) s =
      .next { s with
        resp := .ok,
        dec := { s.dec with
          phase := .awaitSentinel, len := 0#8, count := 0#8, crc := 0x00#8, body := [],
          crcErr := true, rxCrc := b, calcCrc := s.dec.crc,
          mismatchCnt := BitVec.ofNat 16 (min (s.dec.mismatchCnt.toNat + 1) 0xFFFF) } })

/-- R160 (c): noise pushed in AwaitSentinel leaves no trace in the block. -/
def Obligations.DecoderIgnoresNoise : Prop :=
  ∀ (s : State) (noise : List Byte), s.dec.phase = .awaitSentinel → (∀ b ∈ noise, b ≠ 0xD5#8) →
    ∃ t, perform (feed noise) s = .next t ∧ t = { s with pending := [], resp := t.resp }

/-- R155: RESET clears the frame and keeps the error record and the cursor; CLR_ERR the other way round. -/
def Obligations.DecoderControl : Prop :=
  ∀ (s : State) (w : Word) (clrErr : Bool),
    decode ⟨.write, 0x040#12, 4, w⟩ = .ok (.decCtrl (w.getLsbD 0) (w.getLsbD 1)) ∧
    exec (.decCtrl false clrErr) s =
      .next { s with
        resp := .ok,
        dec := if clrErr then
            { s.dec with crcErr := false, rxCrc := 0x00#8, calcCrc := 0x00#8, mismatchCnt := 0#16 }
          else s.dec } ∧
    ∃ t, exec (.decCtrl true clrErr) s = .next t ∧
      t = { s with
        resp := .ok,
        dec := { s.dec with
          phase := .awaitSentinel, len := 0#8, count := 0#8, crc := 0x00#8, body := t.dec.body,
          crcErr := s.dec.crcErr && !clrErr,
          rxCrc := if clrErr then 0x00#8 else s.dec.rxCrc,
          calcCrc := if clrErr then 0x00#8 else s.dec.calcCrc,
          mismatchCnt := if clrErr then 0#16 else s.dec.mismatchCnt } } ∧
      ∀ a, t.dec.body.read a = 0x00#8

/-- R157, R158, with the layouts of R42 and R43: the decoder's status reads change nothing. -/
def Obligations.DecoderStatusReads : Prop :=
  ∀ (s : State) (w : Word),
    decode ⟨.read, 0x048#12, 4, w⟩ = .ok .decStatus ∧ decode ⟨.read, 0x04C#12, 4, w⟩ = .ok .decErrinfo ∧
    (∃ v, exec .decStatus s = .next { s with resp := .rdata v } ∧
      v.extractLsb' 0 3 = (match s.dec.phase with
        | .awaitSentinel => 0#3 | .awaitLength => 1#3 | .awaitPayload => 2#3 | .awaitCrc => 3#3
        | .complete => 4#3) ∧
      v.getLsbD 3 = false ∧ v.getLsbD 4 = s.dec.crcErr ∧ v.extractLsb' 5 3 = 0#3 ∧
      v.extractLsb' 8 8 = s.dec.len ∧ v.extractLsb' 16 8 = s.dec.count ∧ v.extractLsb' 24 8 = s.dec.crc) ∧
    (∃ v, exec .decErrinfo s = .next { s with resp := .rdata v } ∧
      v.extractLsb' 0 8 = s.dec.rxCrc ∧ v.extractLsb' 8 8 = s.dec.calcCrc ∧
      v.extractLsb' 16 16 = s.dec.mismatchCnt)

/-- R156, R44: word `k` of the body window holds bytes `4k .. 4k+3` of a complete body, and 0x00 past its end or in any
other phase; reading changes nothing. -/
def Obligations.BodyWindowReads : Prop :=
  ∀ (s : State) (w : Word) (off : Offset) (k : Nat),
    (off.toNat % 4 = 0 → 0x800 ≤ off.toNat → off.toNat ≤ 0xBFC →
      decode ⟨.read, off, 4, w⟩ = .ok (.decBody ((off.toNat - 0x800) / 4))) ∧
    ∃ v, exec (.decBody k) s = .next { s with resp := .rdata v } ∧
      ∀ j < 4, v.extractLsb' (8 * j) 8 =
        if s.dec.phase = .complete ∧ 4 * k + j < s.dec.len.toNat then s.dec.body.read (4 * k + j) else 0x00#8

/-- R160 (a), (d): the wire frame of a body of at most 255 bytes, pushed in AwaitSentinel or in Complete, ends in
Complete with that body, "at the last byte and not before", with the cursor at 1; no other unit and no error record
changes. -/
def Obligations.PushedFrameCompletes : Prop :=
  ∀ (s : State) (body : List Byte), body.length ≤ 255 →
    s.dec.phase = .awaitSentinel ∨ s.dec.phase = .complete →
    (∃ t, perform (feed (wireFrame body)) s = .next t ∧
      t = { s with
        pending := [], resp := .ok, rd := { s.rd with cursor := 1#8 },
        dec := { s.dec with
          phase := .complete, len := t.dec.len, count := t.dec.len, crc := crc8 body, body := t.dec.body } } ∧
      t.dec.len.toNat = body.length ∧
      t.dec.body.slice 0 body.length = body) ∧
    ∀ n, 1 ≤ n → n < (wireFrame body).length →
      ∃ t, perform (feed ((wireFrame body).take n)) s = .next t ∧ t.dec.phase ≠ .complete

/-- R160 (b): a frame with a corrupted trailer leaves AwaitSentinel and the mismatch record, and a well-formed frame
right after it still completes. -/
def Obligations.MismatchThenResync : Prop :=
  ∀ (s : State) (body1 body2 : List Byte) (trailer : Byte),
    body1.length ≤ 255 → body2.length ≤ 255 → trailer ≠ crc8 body1 →
    s.dec.phase = .awaitSentinel ∨ s.dec.phase = .complete →
    let bad := [0xD5#8, BitVec.ofNat 8 body1.length] ++ body1 ++ [trailer]
    (∃ t, perform (feed bad) s = .next t ∧
      t.dec.phase = .awaitSentinel ∧ t.dec.crcErr = true ∧ t.dec.rxCrc = trailer ∧ t.dec.calcCrc = crc8 body1 ∧
      t.dec.mismatchCnt.toNat = min (s.dec.mismatchCnt.toNat + 1) 0xFFFF ∧ t.resp = .ok ∧
      t.rd = s.rd ∧ t.glbErr = s.glbErr) ∧
    (∃ t, perform (feed (bad ++ wireFrame body2)) s = .next t ∧
      t.dec.phase = .complete ∧ t.dec.crcErr = true ∧ t.dec.len.toNat = body2.length ∧
      t.dec.body.slice 0 body2.length = body2 ∧ t.rd.cursor = 1#8)

/-- R187 (c): a frame built by the encoder, pushed into the decoder, is read back: RD.CODE gives the target, the first
get the command, and gets of the appends' widths the appended values. -/
def Obligations.BuiltFrameReadsBack : Prop :=
  ∀ (s : State) (target command : Byte) (fields : List Payload), (payloadBytes fields).length ≤ 253 →
    s.dec.phase = .awaitSentinel ∨ s.dec.phase = .complete →
    ∃ t, perform (buildFrame target command fields) s = .next t ∧
    ∃ u, perform (feed (t.enc.buf.slice 0 (encFrameLen t.enc))) t = .next u ∧
      u.dec.phase = .complete ∧ u.dec.len.toNat = 2 + (payloadBytes fields).length ∧
      u.dec.body.slice 0 u.dec.len.toNat = [target, command] ++ payloadBytes fields ∧
      (∃ c v, exec .rdCode u = .next c ∧ c.resp = .rdata v ∧ v.extractLsb' 0 8 = target) ∧
      ReadsBack (.u8 command :: fields) u

/-! ## Response reader -/

/-- R184, R181, R182, R183: a get. Outside Complete it raises NOT_READY; in Complete, past the end, PAST_END, and the
cursor does not move; otherwise it returns the little-endian value at the cursor and moves the cursor past it. Nothing
else changes. -/
def Obligations.ReaderGets : Prop :=
  ∀ (s : State) (w : Word) (i : Instr) (off : Offset) (n : Nat),
    decode ⟨.read, 0x068#12, 4, w⟩ = .ok .rdGet8 ∧ decode ⟨.read, 0x06C#12, 4, w⟩ = .ok .rdGet16 ∧
    decode ⟨.read, 0x070#12, 4, w⟩ = .ok .rdGet32 ∧
    ((i = .rdGet8 ∧ off = 0x068#12 ∧ n = 1) ∨ (i = .rdGet16 ∧ off = 0x06C#12 ∧ n = 2) ∨
      (i = .rdGet32 ∧ off = 0x070#12 ∧ n = 4) →
     (s.dec.phase ≠ .complete → exec i s =
       .next { s with
         rd := { s.rd with notReady := true },
         glbErr := errorRecord .read off .notReady, resp := .busError .read .notReady }) ∧
     (s.dec.phase = .complete → s.rd.cursor.toNat + n > s.dec.len.toNat → exec i s =
       .next { s with
         rd := { s.rd with pastEnd := true },
         glbErr := errorRecord .read off .pastEnd, resp := .busError .read .pastEnd }) ∧
     (s.dec.phase = .complete → s.rd.cursor.toNat + n ≤ s.dec.len.toNat →
       ∃ c v, exec i s = .next { s with rd := { s.rd with cursor := c }, resp := .rdata v } ∧
         c.toNat = s.rd.cursor.toNat + n ∧
         v.toNat = ∑ j ∈ Finset.range n, (s.dec.body.read (s.rd.cursor.toNat + j)).toNat * 2 ^ (8 * j)))

/-- R180, R47: RD.CODE returns the raw first byte and whether it is OK_CODE, and moves no cursor; with no body or an
empty one it raises NOT_READY. -/
def Obligations.ReaderCode : Prop :=
  ∀ (s : State) (w : Word),
    decode ⟨.read, 0x064#12, 4, w⟩ = .ok .rdCode ∧
    (s.dec.phase = .complete → s.dec.len ≠ 0#8 →
      ∃ v, exec .rdCode s = .next { s with resp := .rdata v } ∧
        v.extractLsb' 0 8 = s.dec.body.read 0 ∧
        v.getLsbD 8 = decide (s.dec.body.read 0 = Config.okCode) ∧ v.extractLsb' 9 23 = 0#23) ∧
    (s.dec.phase ≠ .complete ∨ s.dec.len = 0#8 → exec .rdCode s =
      .next { s with
        rd := { s.rd with notReady := true },
        glbErr := errorRecord .read 0x064#12 .notReady, resp := .busError .read .notReady })

/-- R185: REWIND sets the cursor to 1, CLR_ERR clears the two flags, and neither does what the other does. -/
def Obligations.ReaderControl : Prop :=
  ∀ (s : State) (w : Word) (rewind clrErr : Bool),
    decode ⟨.write, 0x060#12, 4, w⟩ = .ok (.rdCtrl (w.getLsbD 0) (w.getLsbD 1)) ∧
    exec (.rdCtrl rewind clrErr) s =
      .next { s with
        resp := .ok,
        rd := ⟨if rewind then 1#8 else s.rd.cursor, s.rd.pastEnd && !clrErr, s.rd.notReady && !clrErr⟩ }

/-- R186, R49: the reader's status read. -/
def Obligations.ReaderStatusRead : Prop :=
  ∀ (s : State) (w : Word),
    decode ⟨.read, 0x074#12, 4, w⟩ = .ok .rdStatus ∧
    ∃ v, exec .rdStatus s = .next { s with resp := .rdata v } ∧
      v.extractLsb' 0 8 = s.rd.cursor ∧
      (v.extractLsb' 8 8).toNat =
        (if s.dec.phase = .complete then s.dec.len.toNat - s.rd.cursor.toNat else 0) ∧
      v.getLsbD 16 = decide (s.dec.phase = .complete) ∧ v.getLsbD 17 = s.rd.pastEnd ∧
      v.getLsbD 18 = s.rd.notReady ∧ v.extractLsb' 19 13 = 0#13

/-! ## Timer quantizer -/

/-- R241, R242, R243: the operations of the TQ unit; TQ_RESULT shows `quantize(TQ_TICKS)`. -/
def Obligations.QuantizerOperations : Prop :=
  ∀ (s : State) (w : Word),
    decode ⟨.write, 0x080#12, 4, w⟩ = .ok (.tqSet w) ∧ decode ⟨.read, 0x080#12, 4, w⟩ = .ok .tqGet ∧
    decode ⟨.read, 0x084#12, 4, w⟩ = .ok .tqResult ∧
    exec (.tqSet w) s = .next { s with tqTicks := w, resp := .ok } ∧
    exec .tqGet s = .next { s with resp := .rdata s.tqTicks } ∧
    ∃ v, exec .tqResult s = .next { s with resp := .rdata v } ∧
      (v.extractLsb' 0 16).toNat = (quantize s.tqTicks.toNat).counter ∧
      (v.extractLsb' 16 3).toNat = (quantize s.tqTicks.toNat).band ∧
      v.extractLsb' 19 5 = 0#5 ∧ v.getLsbD 24 = (quantize s.tqTicks.toNat).sat ∧ v.extractLsb' 25 7 = 0#7

/-- R244 (a) to (f): what `quantize` gives, with `F` the five factors. -/
def Obligations.QuantizeChoosesTheBand : Prop :=
  let F : Nat → Nat := fun i => [1, 8, 64, 256, 1024].getD i 0
  (∀ t : Nat,
    (quantize t).band ≤ 4 ∧ (quantize t).counter ≤ 65535 ∧
    ((quantize t).sat = false →
      65535 * F (quantize t).band ≥ t ∧ (∀ i < (quantize t).band, t > 65535 * F i) ∧
      ((quantize t).band ≥ 1 →
        (quantize t).counter ≥ 65535 * F ((quantize t).band - 1) / F (quantize t).band ∧
        65535 * F ((quantize t).band - 1) / F (quantize t).band ≥ 8191) ∧
      (quantize t).counter = t / F (quantize t).band ∧
      (quantize t).counter * F (quantize t).band ≤ t ∧
      t < (quantize t).counter * F (quantize t).band + F (quantize t).band) ∧
    ((quantize t).sat = true ↔ t > 67107840) ∧
    ((quantize t).sat = true → (quantize t).band = 4 ∧ (quantize t).counter = 65535) ∧
    (t ≤ 65535 → quantize t = ⟨0, t, false⟩)) ∧
  (∀ t1 t2 : Nat, t1 ≤ t2 → (quantize t1).band = (quantize t2).band →
    (quantize t1).counter * F (quantize t1).band ≤ (quantize t2).counter * F (quantize t2).band) ∧
  quantize 524280 = ⟨1, 65535, false⟩ ∧ quantize 524281 = ⟨2, 8191, false⟩

/-! ## Move planner -/

/-- R207, R208, R209: the plan inputs are plain registers, and MV_K reads the constant; a write changes no plan. -/
def Obligations.PlannerInputs : Prop :=
  ∀ (s : State) (w : Word),
    decode ⟨.write, 0x090#12, 4, w⟩ = .ok (.mvSetdx w) ∧ decode ⟨.read, 0x090#12, 4, w⟩ = .ok .mvGetdx ∧
    decode ⟨.write, 0x094#12, 4, w⟩ = .ok (.mvSetdy w) ∧ decode ⟨.read, 0x094#12, 4, w⟩ = .ok .mvGetdy ∧
    decode ⟨.write, 0x098#12, 4, w⟩ = .ok (.mvSetdz w) ∧ decode ⟨.read, 0x098#12, 4, w⟩ = .ok .mvGetdz ∧
    decode ⟨.write, 0x09C#12, 4, w⟩ = .ok (.mvSetfeed w) ∧ decode ⟨.read, 0x09C#12, 4, w⟩ = .ok .mvGetfeed ∧
    decode ⟨.read, 0x0A0#12, 4, w⟩ = .ok .mvK ∧
    exec (.mvSetdx w) s =
      .next { s with mv := { s.mv with delta := ⟨w, s.mv.delta.y, s.mv.delta.z⟩ }, resp := .ok } ∧
    exec (.mvSetdy w) s =
      .next { s with mv := { s.mv with delta := ⟨s.mv.delta.x, w, s.mv.delta.z⟩ }, resp := .ok } ∧
    exec (.mvSetdz w) s =
      .next { s with mv := { s.mv with delta := ⟨s.mv.delta.x, s.mv.delta.y, w⟩ }, resp := .ok } ∧
    exec (.mvSetfeed w) s = .next { s with mv := { s.mv with feed := w }, resp := .ok } ∧
    exec .mvGetdx s = .next { s with resp := .rdata s.mv.delta.x } ∧
    exec .mvGetdy s = .next { s with resp := .rdata s.mv.delta.y } ∧
    exec .mvGetdz s = .next { s with resp := .rdata s.mv.delta.z } ∧
    exec .mvGetfeed s = .next { s with resp := .rdata s.mv.feed } ∧
    ∃ v, exec .mvK s = .next { s with resp := .rdata v } ∧ v.toNat = Config.clock ∧
      1 ≤ v.toNat ∧ v.toNat ≤ 2 ^ 32 - 1

/-- R210 to R217: the plan's results, read with no side effect. -/
def Obligations.PlannerResultReads : Prop :=
  ∀ (s : State) (w : Word),
    decode ⟨.read, 0x0A8#12, 4, w⟩ = .ok .mvStatus ∧ decode ⟨.read, 0x0AC#12, 4, w⟩ = .ok .mvTicks ∧
    decode ⟨.read, 0x0B0#12, 4, w⟩ = .ok .mvTimer ∧ decode ⟨.read, 0x0B4#12, 4, w⟩ = .ok .mvNseg ∧
    decode ⟨.read, 0x0B8#12, 4, w⟩ = .ok .mvSegleft ∧ decode ⟨.read, 0x0BC#12, 4, w⟩ = .ok .mvSegdx ∧
    decode ⟨.read, 0x0C0#12, 4, w⟩ = .ok .mvSegdy ∧ decode ⟨.read, 0x0C4#12, 4, w⟩ = .ok .mvSegdz ∧
    decode ⟨.read, 0x0C8#12, 4, w⟩ = .ok .mvSegindex ∧ decode ⟨.read, 0x0CC#12, 4, w⟩ = .ok .mvMaster ∧
    (∃ v, exec .mvStatus s = .next { s with resp := .rdata v } ∧
      v.getLsbD 0 = s.mv.planned ∧ v.getLsbD 1 = s.mv.zeroMove ∧ v.getLsbD 2 = s.mv.feedZero ∧
      v.getLsbD 3 = s.mv.ticksSat ∧ v.getLsbD 4 = s.mv.segValid ∧ v.getLsbD 5 = s.mv.seqErr ∧
      v.extractLsb' 6 26 = 0#26) ∧
    exec .mvTicks s = .next { s with resp := .rdata s.mv.ticks } ∧
    exec .mvTimer s = .next { s with resp := .rdata s.mv.timer } ∧
    exec .mvNseg s = .next { s with resp := .rdata s.mv.nseg } ∧
    exec .mvSegleft s = .next { s with resp := .rdata s.mv.segLeft } ∧
    exec .mvSegdx s = .next { s with resp := .rdata s.mv.seg.x } ∧
    exec .mvSegdy s = .next { s with resp := .rdata s.mv.seg.y } ∧
    exec .mvSegdz s = .next { s with resp := .rdata s.mv.seg.z } ∧
    exec .mvSegindex s = .next { s with resp := .rdata s.mv.segIndex } ∧
    exec .mvMaster s = .next { s with resp := .rdata s.mv.master }

/-- R9: `isqrt(n)` is the largest integer `r ≥ 0` with `r·r ≤ n`. -/
def Obligations.IsqrtIsTheFloorRoot : Prop :=
  ∀ n : Nat, isqrt n * isqrt n ≤ n ∧ ∀ r : Nat, r * r ≤ n → r ≤ isqrt n

/-- R201: the integer computation gives the floor of the exact real `sqrt(D2)·K / F / M`. -/
def Obligations.TicksAreTheExactFloor : Prop :=
  ∀ k d2 m f : Nat, 0 < m → 0 < f →
    ticksExact k d2 m f = ⌊Real.sqrt (d2 : ℝ) * (k : ℝ) / (f : ℝ) / (m : ℝ)⌋₊

/-- R202, with R200 and R203: what PLAN and CLR_ERR do, in the order CLR_ERR, PLAN: a zero move, a refused plan, or a
plan. The inputs, and every other unit, stand. -/
def Obligations.PlanCommand : Prop :=
  ∀ (s : State) (w : Word) (clrErr : Bool),
    let m : Word → Nat := fun d => d.toInt.natAbs
    let sg : Word → Sign := fun d => if d.toInt < 0 then .minus else .plus
    let M := max (m s.mv.delta.x) (max (m s.mv.delta.y) (m s.mv.delta.z))
    let D2 := m s.mv.delta.x ^ 2 + m s.mv.delta.y ^ 2 + m s.mv.delta.z ^ 2
    let F := s.mv.feed.toNat
    let E := isqrt (D2 * Config.clock * Config.clock) / (F * M)
    let cleared : Planner :=
      { delta := s.mv.delta, feed := s.mv.feed,
        planned := false, zeroMove := false, ticksSat := false, segValid := false,
        feedZero := s.mv.feedZero && !clrErr, seqErr := s.mv.seqErr && !clrErr,
        ticks := 0#32, timer := 0#32, nseg := 0#32, segLeft := 0#32, master := 0#32,
        seg := ⟨0#32, 0#32, 0#32⟩, segIndex := 0#32,
        sgn := ⟨.plus, .plus, .plus⟩, rem := ⟨0, 0, 0⟩, remM := 0 }
    decode ⟨.write, 0x0A4#12, 4, w⟩ = .ok (.mvCtrl (w.getLsbD 0) (w.getLsbD 1)) ∧
    exec (.mvCtrl false clrErr) s =
      .next { s with
        resp := .ok,
        mv := { s.mv with feedZero := s.mv.feedZero && !clrErr, seqErr := s.mv.seqErr && !clrErr } } ∧
    (M = 0 → exec (.mvCtrl true clrErr) s =
      .next { s with resp := .ok, mv := { cleared with planned := true, zeroMove := true } }) ∧
    (M ≠ 0 → F = 0 → exec (.mvCtrl true clrErr) s =
      .next { s with resp := .ok, mv := { cleared with feedZero := true } }) ∧
    (M ≠ 0 → F ≠ 0 → exec (.mvCtrl true clrErr) s =
      .next { s with
        resp := .ok,
        mv := { cleared with
          planned := true,
          master := BitVec.ofNat 32 M,
          ticks := BitVec.ofNat 32 (min E (2 ^ 32 - 1)),
          ticksSat := decide (E > 2 ^ 32 - 1),
          timer := timerWord (quantize (min E (2 ^ 32 - 1))),
          nseg := BitVec.ofNat 32 ((M + 65535 - 1) / 65535),
          segLeft := BitVec.ofNat 32 ((M + 65535 - 1) / 65535),
          sgn := ⟨sg s.mv.delta.x, sg s.mv.delta.y, sg s.mv.delta.z⟩,
          rem := ⟨m s.mv.delta.x, m s.mv.delta.y, m s.mv.delta.z⟩,
          remM := M } })

/-- R204: MV.NEXT with a segment left gives each axis its share, or all that is left in the last segment; with none it
raises SEQUENCE and the segment registers stand. The data word is ignored. -/
def Obligations.NextSegment : Prop :=
  ∀ (s : State) (w : Word),
    let al : Nat → Nat := fun r =>
      if s.mv.remM > 65535 then (2 * 65535 * r + s.mv.remM) / (2 * s.mv.remM) else r
    let signed : Sign → Nat → Word := fun g n =>
      BitVec.ofInt 32 ((if g = .plus then 1 else -1) * (n : Int))
    decode ⟨.write, 0x0D0#12, 4, w⟩ = .ok .mvNext ∧
    (s.mv.segLeft ≠ 0#32 → exec .mvNext s =
      .next { s with
        resp := .ok,
        mv := { s.mv with
          seg := ⟨signed s.mv.sgn.x (al s.mv.rem.x), signed s.mv.sgn.y (al s.mv.rem.y),
            signed s.mv.sgn.z (al s.mv.rem.z)⟩,
          rem := ⟨s.mv.rem.x - al s.mv.rem.x, s.mv.rem.y - al s.mv.rem.y, s.mv.rem.z - al s.mv.rem.z⟩,
          remM := if s.mv.remM > 65535 then s.mv.remM - 65535 else 0,
          segLeft := s.mv.segLeft - 1, segIndex := s.mv.segIndex + 1, segValid := true } }) ∧
    (s.mv.segLeft = 0#32 → exec .mvNext s =
      .next { s with
        mv := { s.mv with seqErr := true },
        glbErr := errorRecord .write 0x0D0#12 .sequence, resp := .busError .write .sequence })

/-- R205: a non-final share is `65535 · rem / remM` rounded half up. -/
def Obligations.ShareRoundsHalfUp : Prop :=
  ∀ remM rem : Nat, 0 < remM →
    segShare remM rem = ⌊(65535 * (rem : ℚ)) / (remM : ℚ) + 1 / 2⌋₊

/-- R206 (a) to (f) with R203: no axis ever has more left than the master axis, and MV.NEXT keeps it so. After a PLAN with
`M > 0` and `F > 0`, exactly `nseg(M)` MV.NEXT succeed and their segments sum to the original deltas, each of magnitude
at most 65535 and with its delta's sign or 0. A master axis gets 65535 in every segment but the last, and a short move
is one segment. -/
def Obligations.SegmentsAreLossless : Prop :=
  (∀ s t : State, masterSteps s.mv.rem ≤ s.mv.remM → exec .mvNext s = .next t →
    masterSteps t.mv.rem ≤ t.mv.remM) ∧
  ∀ (s : State) (clrErr : Bool),
    let m : Word → Nat := fun d => d.toInt.natAbs
    let follows : Word → Word → Prop := fun w d => m w ≤ 65535 ∧ 0 ≤ w.toInt * d.toInt ∧ (d = 0#32 → w = 0#32)
    let d := s.mv.delta
    let M := max (m d.x) (max (m d.y) (m d.z))
    M ≠ 0 → s.mv.feed ≠ 0#32 →
    ∃ t segs u, exec (.mvCtrl true clrErr) s = .next t ∧ SegmentsFrom segs t u ∧
      masterSteps t.mv.rem ≤ t.mv.remM ∧
      segs.length = (M + 65534) / 65535 ∧ t.mv.nseg.toNat = segs.length ∧
      u.mv.segLeft = 0#32 ∧ u.mv.rem = ⟨0, 0, 0⟩ ∧
      axisSum (fun w => w.x) segs = d.x.toInt ∧ axisSum (fun w => w.y) segs = d.y.toInt ∧
      axisSum (fun w => w.z) segs = d.z.toInt ∧
      (∀ w ∈ segs, follows w.x d.x ∧ follows w.y d.y ∧ follows w.z d.z) ∧
      (∀ w ∈ segs.dropLast,
        (m d.x = M → m w.x = 65535) ∧ (m d.y = M → m w.y = 65535) ∧ (m d.z = M → m w.z = 65535)) ∧
      (M ≤ 65535 → segs = [d])
end

