-- ==== Sys2Proof/Laws/State.lean ====
section
/-!
SUPPORT. What the shared updates of State do to each field: one lemma per field per update, so that no later proof
unfolds a record update.
-/

namespace Sys2Proof.Machine

/-! ## A write ends with `ok` -/

@[simp] theorem State.ok_glbErr (s : State) : (s.ok).glbErr = s.glbErr := rfl
@[simp] theorem State.ok_crcAcc (s : State) : (s.ok).crcAcc = s.crcAcc := rfl
@[simp] theorem State.ok_enc (s : State) : (s.ok).enc = s.enc := rfl
@[simp] theorem State.ok_dec (s : State) : (s.ok).dec = s.dec := rfl
@[simp] theorem State.ok_rd (s : State) : (s.ok).rd = s.rd := rfl
@[simp] theorem State.ok_tqTicks (s : State) : (s.ok).tqTicks = s.tqTicks := rfl
@[simp] theorem State.ok_mv (s : State) : (s.ok).mv = s.mv := rfl
@[simp] theorem State.ok_pending (s : State) : (s.ok).pending = s.pending := rfl
@[simp] theorem State.ok_resp (s : State) : (s.ok).resp = .ok := rfl

/-! ## A read ends with `rdata` -/

@[simp] theorem State.answer_glbErr (s : State) (v : Word) : (s.answer v).glbErr = s.glbErr := rfl
@[simp] theorem State.answer_crcAcc (s : State) (v : Word) : (s.answer v).crcAcc = s.crcAcc := rfl
@[simp] theorem State.answer_enc (s : State) (v : Word) : (s.answer v).enc = s.enc := rfl
@[simp] theorem State.answer_dec (s : State) (v : Word) : (s.answer v).dec = s.dec := rfl
@[simp] theorem State.answer_rd (s : State) (v : Word) : (s.answer v).rd = s.rd := rfl
@[simp] theorem State.answer_tqTicks (s : State) (v : Word) : (s.answer v).tqTicks = s.tqTicks := rfl
@[simp] theorem State.answer_mv (s : State) (v : Word) : (s.answer v).mv = s.mv := rfl
@[simp] theorem State.answer_pending (s : State) (v : Word) : (s.answer v).pending = s.pending := rfl
@[simp] theorem State.answer_resp (s : State) (v : Word) : (s.answer v).resp = .rdata v := rfl

/-! ## An access ends with a bus error -/

@[simp] theorem State.raise_glbErr (s : State) (d : Dir) (o : Offset) (c : Cause) : (s.raise d o c).glbErr = errorRecord d o c := rfl
@[simp] theorem State.raise_crcAcc (s : State) (d : Dir) (o : Offset) (c : Cause) : (s.raise d o c).crcAcc = s.crcAcc := rfl
@[simp] theorem State.raise_enc (s : State) (d : Dir) (o : Offset) (c : Cause) : (s.raise d o c).enc = s.enc := rfl
@[simp] theorem State.raise_dec (s : State) (d : Dir) (o : Offset) (c : Cause) : (s.raise d o c).dec = s.dec := rfl
@[simp] theorem State.raise_rd (s : State) (d : Dir) (o : Offset) (c : Cause) : (s.raise d o c).rd = s.rd := rfl
@[simp] theorem State.raise_tqTicks (s : State) (d : Dir) (o : Offset) (c : Cause) : (s.raise d o c).tqTicks = s.tqTicks := rfl
@[simp] theorem State.raise_mv (s : State) (d : Dir) (o : Offset) (c : Cause) : (s.raise d o c).mv = s.mv := rfl
@[simp] theorem State.raise_pending (s : State) (d : Dir) (o : Offset) (c : Cause) : (s.raise d o c).pending = s.pending := rfl
@[simp] theorem State.raise_resp (s : State) (d : Dir) (o : Offset) (c : Cause) : (s.raise d o c).resp = .busError d c := rfl

/-! ## Soft reset -/

@[simp] theorem State.softReset_glbErr (s : State) : (s.softReset).glbErr = 0#32 := rfl
@[simp] theorem State.softReset_crcAcc (s : State) : (s.softReset).crcAcc = Config.crcInit := rfl
@[simp] theorem State.softReset_enc (s : State) : (s.softReset).enc = Encoder.reset := rfl
@[simp] theorem State.softReset_dec (s : State) : (s.softReset).dec = Decoder.reset := rfl
@[simp] theorem State.softReset_rd (s : State) : (s.softReset).rd = Reader.reset := rfl
@[simp] theorem State.softReset_tqTicks (s : State) : (s.softReset).tqTicks = 0#32 := rfl
@[simp] theorem State.softReset_mv (s : State) : (s.softReset).mv = Planner.reset := rfl
@[simp] theorem State.softReset_pending (s : State) : (s.softReset).pending = s.pending := rfl
@[simp] theorem State.softReset_resp (s : State) : (s.softReset).resp = s.resp := rfl

/-! ## Power-on -/

@[simp] theorem State.powerOn_glbErr (s : State) : (s.powerOn).glbErr = 0#32 := rfl
@[simp] theorem State.powerOn_crcAcc (s : State) : (s.powerOn).crcAcc = Config.crcInit := rfl
@[simp] theorem State.powerOn_enc (s : State) : (s.powerOn).enc = Encoder.reset := rfl
@[simp] theorem State.powerOn_dec (s : State) : (s.powerOn).dec = Decoder.reset := rfl
@[simp] theorem State.powerOn_rd (s : State) : (s.powerOn).rd = Reader.reset := rfl
@[simp] theorem State.powerOn_tqTicks (s : State) : (s.powerOn).tqTicks = 0#32 := rfl
@[simp] theorem State.powerOn_mv (s : State) : (s.powerOn).mv = Planner.reset := rfl
@[simp] theorem State.powerOn_pending (s : State) : (s.powerOn).pending = s.pending := rfl
@[simp] theorem State.powerOn_resp (s : State) : (s.powerOn).resp = .idle := rfl

/-! ## The reset state -/

@[simp] theorem State.reset_glbErr : State.reset.glbErr = 0#32 := rfl
@[simp] theorem State.reset_crcAcc : State.reset.crcAcc = Config.crcInit := rfl
@[simp] theorem State.reset_enc : State.reset.enc = Encoder.reset := rfl
@[simp] theorem State.reset_dec : State.reset.dec = Decoder.reset := rfl
@[simp] theorem State.reset_rd : State.reset.rd = Reader.reset := rfl
@[simp] theorem State.reset_tqTicks : State.reset.tqTicks = 0#32 := rfl
@[simp] theorem State.reset_mv : State.reset.mv = Planner.reset := rfl
@[simp] theorem State.reset_pending : State.reset.pending = [] := rfl
@[simp] theorem State.reset_resp : State.reset.resp = .idle := rfl

end Sys2Proof.Machine
end

