-- ==== Sys2Proof/Laws/Bus.lean ====
section
/-!
SUPPORT. What one step of the block can do, said once, and how a list of operations is performed.
-/

namespace Sys2Proof.Machine

theorem performAccess_of_ok {a : Access} {i : Instr} (h : decode a = .ok i) (s : State) :
    performAccess a s = exec i s := by
  rw [performAccess, h]

theorem performAccess_of_error {a : Access} {c : Cause} (h : decode a = .error c) (s : State) :
    performAccess a s = .next (s.raise a.dir a.off c) := by
  rw [performAccess, h]

theorem step_of_access {s : State} {a : Access} {rest : List HostEvent} (h : s.pending = .access a :: rest) :
    step s = performAccess a { s with pending := rest } := by
  rw [step, takeEvent, h]
  rfl

theorem step_of_powerOn {s : State} {rest : List HostEvent} (h : s.pending = .powerOn :: rest) :
    step s = .next { State.reset with pending := rest } := by
  rw [step, takeEvent, h]
  rfl

theorem step_of_nil {s : State} (h : s.pending = []) : step s = .next s := by
  rw [step, takeEvent, h]

/-- Everything a step can do: nothing, a power-on, an access that a generic check turns away, or an operation. -/
theorem step_cases {s t : State} (h : step s = .next t) :
    (s.pending = [] ∧ t = s) ∨
    (∃ rest, s.pending = .powerOn :: rest ∧ t = { State.reset with pending := rest }) ∨
    (∃ a rest c, s.pending = .access a :: rest ∧ decode a = .error c ∧
      t = ({ s with pending := rest } : State).raise a.dir a.off c) ∨
    (∃ a rest i, s.pending = .access a :: rest ∧ decode a = .ok i ∧ exec i { s with pending := rest } = .next t) := by
  match hp : s.pending with
  | [] =>
    rw [step_of_nil hp, Host.Outcome.next.injEq] at h
    exact .inl ⟨rfl, h.symm⟩
  | .powerOn :: rest =>
    rw [step_of_powerOn hp, Host.Outcome.next.injEq] at h
    exact .inr (.inl ⟨rest, rfl, h.symm⟩)
  | .access a :: rest =>
    rw [step_of_access hp] at h
    match hd : decode a with
    | .error c =>
      rw [performAccess_of_error hd, Host.Outcome.next.injEq] at h
      exact .inr (.inr (.inl ⟨a, rest, c, rfl, hd, h.symm⟩))
    | .ok i =>
      rw [performAccess_of_ok hd] at h
      exact .inr (.inr (.inr ⟨a, rest, i, rfl, hd, h⟩))

/-! ## The accesses still to come -/

theorem encAppend_pending (off : Offset) (bytes : List Byte) (s : State) (p : List HostEvent) :
    encAppend off bytes { s with pending := p } = { encAppend off bytes s with pending := p } := by
  unfold encAppend
  split_ifs <;> rfl

theorem decPushByte_pending (b : Byte) (s : State) (p : List HostEvent) :
    decPushByte b { s with pending := p } = { decPushByte b s with pending := p } := by
  unfold decPushByte stepCrc
  dsimp only
  cases s.dec.phase <;> dsimp only
  split_ifs <;> rfl

theorem rdGet_pending (off : Offset) (n : Nat) (s : State) (p : List HostEvent) :
    rdGet off n { s with pending := p } = { rdGet off n s with pending := p } := by
  unfold rdGet
  dsimp only
  split_ifs <;> rfl

/-- An operation neither reads nor changes the accesses still to come. -/
theorem exec_pending {i : Instr} {s t : State} (p : List HostEvent) (h : exec i s = .next t) :
    exec i { s with pending := p } = .next { t with pending := p } := by
  cases i
  case encAdd8 v =>
    injection h with h; subst h
    exact congrArg Host.Outcome.next (encAppend_pending Off.encAdd8 (le8 v) s p)
  case encAdd16 v =>
    injection h with h; subst h
    exact congrArg Host.Outcome.next (encAppend_pending Off.encAdd16 (le16 v) s p)
  case encAdd32 v =>
    injection h with h; subst h
    exact congrArg Host.Outcome.next (encAppend_pending Off.encAdd32 (le32 v) s p)
  case decPush b =>
    injection h with h; subst h
    exact congrArg (fun u : State => Host.Outcome.next u.ok) (decPushByte_pending b s p)
  case rdGet8 =>
    injection h with h; subst h
    exact congrArg Host.Outcome.next (rdGet_pending Off.rdGet8 1 s p)
  case rdGet16 =>
    injection h with h; subst h
    exact congrArg Host.Outcome.next (rdGet_pending Off.rdGet16 2 s p)
  case rdGet32 =>
    injection h with h; subst h
    exact congrArg Host.Outcome.next (rdGet_pending Off.rdGet32 4 s p)
  case sysCtrl r c =>
    injection h with h; subst h
    cases r <;> cases c <;> rfl
  case encFinalize =>
    simp only [exec, execEncFinalize] at h ⊢
    split_ifs at h ⊢ <;> injection h with h <;> subst h <;> rfl
  case rdCode =>
    simp only [exec, execRdCode] at h ⊢
    split_ifs at h ⊢ <;> injection h with h <;> subst h <;> rfl
  case mvNext =>
    simp only [exec, execMvNext] at h ⊢
    split_ifs at h ⊢ <;> injection h with h <;> subst h <;> rfl
  all_goals
    injection h with h
    subst h
    rfl

/-! ## Runs -/

theorem perform_nil (s : State) : perform [] s = .next { s with pending := [] } := rfl

/-- One operation of a list of operations is performed, and the rest follows in the state it leaves. -/
theorem perform_cons {i : Instr} (ops : List Instr) {s t : State} (hd : decode (encode i) = .ok i)
    (h : exec i s = .next t) : perform (i :: ops) s = perform ops t := by
  have hstep : step (s.issue (i :: ops)) = .next (t.issue ops) := by
    rw [step_of_access (a := encode i) (rest := ops.map (fun j => .access (encode j))) rfl, performAccess_of_ok hd]
    exact exec_pending (s := s) (ops.map (fun j => .access (encode j))) h
  rw [perform, List.length_cons, run, hstep]
  rfl

end Sys2Proof.Machine
end

