-- ==== Sys2Proof/Laws/Crc.lean ====
section
/-!
SUPPORT. The checksum over a sequence, piece by piece.
-/

namespace Sys2Proof.Machine

@[simp] theorem crc8_nil : crc8 [] = 0#8 := rfl

@[simp] theorem crc8From_nil (c : Byte) : crc8From c [] = c := rfl

theorem crc8From_cons (c b : Byte) (bytes : List Byte) :
    crc8From c (b :: bytes) = crc8From (crc8Update c b) bytes := rfl

theorem crc8From_append (c : Byte) (u v : List Byte) : crc8From c (u ++ v) = crc8From (crc8From c u) v :=
  List.foldl_append

theorem crc8_append (u v : List Byte) : crc8 (u ++ v) = crc8From (crc8 u) v := crc8From_append _ u v

/-- The checksum of a sequence one byte longer. -/
theorem crc8_concat (u : List Byte) (b : Byte) : crc8 (u ++ [b]) = crc8Update (crc8 u) b := crc8_append u [b]

end Sys2Proof.Machine
end

