-- ==== Sys2Proof/Laws/Memory.lean ====
section
/-!
SUPPORT. The laws of a byte buffer: every operation keeps the canonical form, a read after a write, and that two
canonical buffers with the same bytes are the same list.
-/

namespace Sys2Proof.Machine

@[simp] theorem Memory.read_nil (a : Nat) : Memory.read [] a = 0#8 := rfl

@[simp] theorem Memory.read_cons (k : Nat) (v : Byte) (m : Memory) (a : Nat) :
    Memory.read ((k, v) :: m) a = if k = a then v else m.read a := rfl

@[simp] theorem Memory.wf_nil : Memory.wf [] = true := rfl

@[simp] theorem Memory.within_nil (n : Nat) : Memory.within n [] = true := rfl

theorem Memory.wf_cons (k : Nat) (v : Byte) (m : Memory) :
    Memory.wf ((k, v) :: m) = true ↔ v ≠ 0#8 ∧ Memory.above k m = true ∧ Memory.wf m = true := by
  rw [Memory.wf, Memory.unlisted, Bool.and_eq_true, Bool.and_eq_true, and_assoc, decide_eq_true_iff]

theorem Memory.above_cons (lo k : Nat) (v : Byte) (m : Memory) :
    Memory.above lo ((k, v) :: m) = true ↔ lo < k ∧ Memory.above lo m = true := by
  simp [Memory.above]

theorem Memory.within_cons (n k : Nat) (v : Byte) (m : Memory) :
    Memory.within n ((k, v) :: m) = true ↔ k < n ∧ Memory.within n m = true := by
  simp [Memory.within]

theorem Memory.above_mono {lo lo' : Nat} (h : lo' ≤ lo) :
    ∀ {m : Memory}, Memory.above lo m = true → Memory.above lo' m = true
  | [], _ => rfl
  | (k, v) :: m, hm => by
    rw [above_cons] at hm ⊢
    exact ⟨by omega, above_mono h hm.2⟩

/-- An index at or below a bound that every listed index is above reads 0x00. -/
theorem Memory.read_of_above {lo a : Nat} (ha : a ≤ lo) :
    ∀ {m : Memory}, Memory.above lo m = true → m.read a = 0#8
  | [], _ => rfl
  | (k, v) :: m, hm => by
    rw [above_cons] at hm
    rw [read_cons, if_neg (by omega), read_of_above ha hm.2]

/-- An index at or past the buffer's size reads 0x00. -/
theorem Memory.read_of_within {n a : Nat} (ha : n ≤ a) :
    ∀ {m : Memory}, Memory.within n m = true → m.read a = 0#8
  | [], _ => rfl
  | (k, v) :: m, hm => by
    rw [within_cons] at hm
    rw [read_cons, if_neg (by omega), read_of_within ha hm.2]

theorem Memory.above_write {lo a : Nat} (b : Byte) (ha : lo < a) :
    ∀ {m : Memory}, Memory.above lo m = true → Memory.above lo (m.write a b) = true
  | [], _ => by
    unfold Memory.write
    split
    · rfl
    · rw [above_cons]; exact ⟨ha, rfl⟩
  | (k, v) :: m, hm => by
    rw [above_cons] at hm
    unfold Memory.write
    split_ifs <;> simp only [above_cons, hm, ha, and_self]
    exact ⟨trivial, above_write b ha hm.2⟩

/-- A write keeps the canonical form. -/
theorem Memory.wf_write (a : Nat) (b : Byte) :
    ∀ {m : Memory}, m.wf = true → (m.write a b).wf = true
  | [], _ => by
    unfold Memory.write
    split
    · rfl
    · rename_i h; rw [wf_cons]; exact ⟨h, rfl, rfl⟩
  | (k, v) :: m, hm => by
    have h' := hm
    rw [wf_cons] at hm
    obtain ⟨hv, hab, hwf⟩ := hm
    unfold Memory.write
    split_ifs with h1 h2 h3 h4
    · exact h'
    · rw [wf_cons, above_cons]
      exact ⟨h2, ⟨h1, above_mono (by omega) hab⟩, h'⟩
    · exact hwf
    · subst h3; rw [wf_cons]; exact ⟨h4, hab, hwf⟩
    · rw [wf_cons]; exact ⟨hv, above_write b (by omega) hab, wf_write a b hwf⟩

/-- A write below the size keeps the buffer within its size. -/
theorem Memory.within_write {n a : Nat} (b : Byte) (ha : a < n) :
    ∀ {m : Memory}, Memory.within n m = true → Memory.within n (m.write a b) = true
  | [], _ => by
    unfold Memory.write
    split
    · rfl
    · rw [within_cons]; exact ⟨ha, rfl⟩
  | (k, v) :: m, hm => by
    rw [within_cons] at hm
    unfold Memory.write
    split_ifs <;> simp only [within_cons, hm, ha, and_self]
    exact ⟨trivial, within_write b ha hm.2⟩

/-- A read after a write, in canonical form: the byte written at its index, every other byte as before. -/
theorem Memory.read_write (a c : Nat) (b : Byte) :
    ∀ {m : Memory}, m.wf = true → (m.write a b).read c = if c = a then b else m.read c
  | [], _ => by
    unfold Memory.write Memory.unlisted
    split_ifs with h1 h2 h3
    · simp [h1]
    · simp
    · simp [h3]
    · simp [Ne.symm h3]
  | (k, v) :: m, hm => by
    rw [wf_cons] at hm
    obtain ⟨hv, hab, hwf⟩ := hm
    have ih := read_write a c b hwf
    have h0 : ∀ d, d ≤ k → Memory.read m d = 0#8 := fun d hd => read_of_above hd hab
    unfold Memory.write Memory.unlisted
    by_cases hca : c = a
    · subst hca
      rw [if_pos rfl] at ih ⊢
      split_ifs with h1 h2 h3 h4
      · rw [read_cons, if_neg (by omega), h0 c (by omega), h2]
      · rw [read_cons, if_pos rfl]
      · rw [h0 c (by omega), h4]
      · rw [read_cons, if_pos rfl]
      · rw [read_cons, if_neg (by omega), ih]
    · rw [if_neg hca] at ih ⊢
      split_ifs with h1 h2 h3 h4
      · rfl
      · rw [read_cons, if_neg (Ne.symm hca)]
      · rw [read_cons, if_neg (by omega)]
      · rw [read_cons, read_cons, if_neg (by omega), if_neg (by omega)]
      · rw [read_cons, read_cons, ih]

/-- A store past the buffer's size changes nothing. -/
theorem Memory.store_of_le {size a : Nat} (h : size ≤ a) (m : Memory) (b : Byte) : m.store size a b = m :=
  if_neg (by omega)

/-- What a store does, once: it keeps the canonical form and the size, and it changes one byte of the buffer. -/
theorem Memory.store_spec (size a : Nat) (b : Byte) {m : Memory} (hwf : m.wf = true)
    (hin : Memory.within size m = true) :
    (m.store size a b).wf = true ∧ Memory.within size (m.store size a b) = true ∧
      ∀ c, (m.store size a b).read c = if c = a ∧ a < size then b else m.read c := by
  unfold Memory.store
  split_ifs with h
  · refine ⟨wf_write a b hwf, within_write b h hin, fun c => ?_⟩
    rw [read_write a c b hwf]
    simp [h]
  · exact ⟨hwf, hin, fun c => by simp [h]⟩

theorem Memory.above_of_wf_cons {k : Nat} {v : Byte} {m : Memory} (h : Memory.wf ((k, v) :: m) = true) :
    Memory.above k m = true :=
  ((wf_cons k v m).mp h).2.1

theorem Memory.slice_length (m : Memory) : ∀ a n, (m.slice a n).length = n
  | _, 0 => rfl
  | a, n + 1 => by simp [Memory.slice, slice_length m (a + 1) n]

theorem Memory.slice_getElem (m : Memory) :
    ∀ a n i (h : i < (m.slice a n).length), (m.slice a n)[i] = m.read (a + i)
  | a, 0, i, h => by simp [Memory.slice] at h
  | a, n + 1, 0, h => by simp [Memory.slice]
  | a, n + 1, i + 1, h => by
    simp only [Memory.slice, List.getElem_cons_succ]
    rw [slice_getElem m (a + 1) n i]
    congr 1
    omega

/-- A slice of a buffer depends on the bytes it covers only. -/
theorem Memory.slice_congr {m m' : Memory} :
    ∀ a n, (∀ i, a ≤ i → i < a + n → m.read i = m'.read i) → m.slice a n = m'.slice a n
  | _, 0, _ => rfl
  | a, n + 1, h => by
    rw [Memory.slice, Memory.slice, h a (le_refl a) (by omega),
      slice_congr (a + 1) n (fun i h1 h2 => h i (by omega) (by omega))]

/-- A slice one byte longer ends with that byte. -/
theorem Memory.slice_succ (m : Memory) : ∀ a n, m.slice a (n + 1) = m.slice a n ++ [m.read (a + n)]
  | _, 0 => rfl
  | a, n + 1 => by
    rw [Memory.slice, slice_succ m (a + 1) n, Memory.slice, List.cons_append]
    congr 4
    omega

end Sys2Proof.Machine
end

