-- ==== Sys2Proof/Laws/Decoder.lean ====
section
/-!
SUPPORT. What a push does in each phase, said once.
-/

namespace Sys2Proof.Machine

@[simp] theorem Decoder.restart_phase (d : Decoder) : d.restart.phase = .awaitSentinel := rfl
@[simp] theorem Decoder.restart_len (d : Decoder) : d.restart.len = 0#8 := rfl
@[simp] theorem Decoder.restart_count (d : Decoder) : d.restart.count = 0#8 := rfl
@[simp] theorem Decoder.restart_crc (d : Decoder) : d.restart.crc = 0#8 := rfl
@[simp] theorem Decoder.restart_body (d : Decoder) : d.restart.body = [] := rfl
@[simp] theorem Decoder.restart_crcErr (d : Decoder) : d.restart.crcErr = d.crcErr := rfl
@[simp] theorem Decoder.restart_rxCrc (d : Decoder) : d.restart.rxCrc = d.rxCrc := rfl
@[simp] theorem Decoder.restart_calcCrc (d : Decoder) : d.restart.calcCrc = d.calcCrc := rfl
@[simp] theorem Decoder.restart_mismatchCnt (d : Decoder) : d.restart.mismatchCnt = d.mismatchCnt := rfl

theorem decPushByte_of_awaitSentinel {s : State} (b : Byte) (h : s.dec.phase = .awaitSentinel) :
    decPushByte b s = { s with dec := s.dec.stepSentinel b } := by
  rw [decPushByte, h]

theorem decPushByte_of_complete {s : State} (b : Byte) (h : s.dec.phase = .complete) :
    decPushByte b s = { s with dec := s.dec.restart.stepSentinel b } := by
  rw [decPushByte, h]

theorem decPushByte_of_awaitLength {s : State} (b : Byte) (h : s.dec.phase = .awaitLength) :
    decPushByte b s = { s with dec := s.dec.stepLength b } := by
  rw [decPushByte, h]

theorem decPushByte_of_awaitPayload {s : State} (b : Byte) (h : s.dec.phase = .awaitPayload) :
    decPushByte b s = { s with dec := s.dec.stepPayload b } := by
  rw [decPushByte, h]

theorem decPushByte_of_match {s : State} {b : Byte} (h : s.dec.phase = .awaitCrc) (hb : b = s.dec.crc) :
    decPushByte b s = { s with dec := { s.dec with phase := .complete }, rd := { s.rd with cursor := 1#8 } } := by
  rw [decPushByte, h]
  exact if_pos hb

theorem decPushByte_of_mismatch {s : State} {b : Byte} (h : s.dec.phase = .awaitCrc) (hb : b ≠ s.dec.crc) :
    decPushByte b s = { s with dec := s.dec.mismatch b } := by
  rw [decPushByte, h]
  exact if_neg hb

/-- A push changes the decoder only, and the reader's cursor when it completes a frame. -/
theorem decPushByte_cases (b : Byte) (s : State) :
    (∃ d, decPushByte b s = { s with dec := d } ∧ (d.phase = .complete → False)) ∨
    (s.dec.phase = .awaitCrc ∧ b = s.dec.crc ∧
      decPushByte b s = { s with dec := { s.dec with phase := .complete }, rd := { s.rd with cursor := 1#8 } }) := by
  match h : s.dec.phase with
  | .awaitSentinel =>
    refine .inl ⟨_, decPushByte_of_awaitSentinel b h, ?_⟩
    rw [Decoder.stepSentinel]
    split <;> simp [h]
  | .complete =>
    refine .inl ⟨_, decPushByte_of_complete b h, ?_⟩
    rw [Decoder.stepSentinel]
    split <;> simp
  | .awaitLength =>
    refine .inl ⟨_, decPushByte_of_awaitLength b h, ?_⟩
    rw [Decoder.stepLength]
    dsimp only
    split <;> simp
  | .awaitPayload =>
    refine .inl ⟨_, decPushByte_of_awaitPayload b h, ?_⟩
    rw [Decoder.stepPayload]
    dsimp only
    split <;> simp
  | .awaitCrc =>
    by_cases hb : b = s.dec.crc
    · exact .inr ⟨rfl, hb, decPushByte_of_match h hb⟩
    · exact .inl ⟨_, decPushByte_of_mismatch h hb, by simp [Decoder.mismatch]⟩

/-- What one body byte does, while the body is not full: it is stored behind the bytes collected, and counted. -/
theorem Decoder.stepPayload_spec {d : Decoder} (b : Byte) (hwf : d.body.wf = true)
    (hin : Memory.within Config.bodySize d.body = true) (hlt : d.count.toNat < d.len.toNat) :
    (d.stepPayload b).body.wf = true ∧ Memory.within Config.bodySize (d.stepPayload b).body = true ∧
      (d.stepPayload b).count.toNat = d.count.toNat + 1 ∧
      (d.stepPayload b).phase = (if d.count.toNat + 1 = d.len.toNat then .awaitCrc else .awaitPayload) ∧
      ∀ a, (d.stepPayload b).body.read a = if a = d.count.toNat then b else d.body.read a := by
  have hl := d.len.isLt
  have hcount : (d.count + 1).toNat = d.count.toNat + 1 := by
    show (d.count + 1#8).toNat = _
    rw [BitVec.toNat_add, BitVec.toNat_ofNat]
    omega
  obtain ⟨w, i, r⟩ := Memory.store_spec Config.bodySize d.count.toNat b hwf hin
  refine ⟨w, i, hcount, ?_, fun a => ?_⟩
  · show (if d.count + 1 = d.len then _ else _) = _
    refine if_congr ⟨fun h => ?_, fun h => ?_⟩ rfl rfl
    · rw [← h, hcount]
    · exact BitVec.eq_of_toNat_eq (by rw [hcount, h])
  · show Memory.read (Memory.store _ _ _ _) a = _
    rw [r a]
    simp only [show d.count.toNat < Config.bodySize from by rw [Config.bodySize]; omega, and_true]

end Sys2Proof.Machine
end

