-- ==== Sys2Proof/Laws/Encoder.lean ====
section
/-!
SUPPORT. What the encoder's shared operations do, said once: one appended byte, an append, BEGIN, FINALIZE.
-/

namespace Sys2Proof.Machine

/-! ## One byte -/

@[simp] theorem Encoder.push_state (e : Encoder) (v : Byte) : (e.push v).state = e.state := rfl
@[simp] theorem Encoder.push_len (e : Encoder) (v : Byte) : (e.push v).len = e.len + 1 := rfl
@[simp] theorem Encoder.push_crc (e : Encoder) (v : Byte) : (e.push v).crc = crc8Update e.crc v := rfl
@[simp] theorem Encoder.push_overflow (e : Encoder) (v : Byte) : (e.push v).overflow = e.overflow := rfl
@[simp] theorem Encoder.push_seqErr (e : Encoder) (v : Byte) : (e.push v).seqErr = e.seqErr := rfl
@[simp] theorem Encoder.push_buf (e : Encoder) (v : Byte) :
    (e.push v).buf = e.buf.store Config.maxFrame (2 + e.len.toNat) v := rfl

@[simp] theorem Encoder.pushAll_nil (e : Encoder) : e.pushAll [] = e := rfl

theorem Encoder.pushAll_cons (e : Encoder) (v : Byte) (bytes : List Byte) :
    e.pushAll (v :: bytes) = (e.push v).pushAll bytes := rfl

theorem Encoder.pushAll_append (e : Encoder) (u v : List Byte) : e.pushAll (u ++ v) = (e.pushAll u).pushAll v :=
  List.foldl_append

/-! ## All the bytes of an append -/

/-- What appended bytes leave as it was, and the CRC they are folded into. -/
theorem Encoder.pushAll_fields (bytes : List Byte) : ∀ e : Encoder,
    (e.pushAll bytes).state = e.state ∧ (e.pushAll bytes).overflow = e.overflow ∧
      (e.pushAll bytes).seqErr = e.seqErr ∧ (e.pushAll bytes).crc = crc8From e.crc bytes := by
  induction bytes with
  | nil => exact fun e => ⟨rfl, rfl, rfl, rfl⟩
  | cons v bytes ih => exact fun e => ih (e.push v)

/-- Where appended bytes go when they fit: after the body, in order, and nowhere else. -/
theorem Encoder.pushAll_spec (bytes : List Byte) : ∀ e : Encoder, e.buf.wf = true →
    Memory.within Config.maxFrame e.buf = true → e.len.toNat + bytes.length ≤ Config.maxLen →
    (e.pushAll bytes).buf.wf = true ∧ Memory.within Config.maxFrame (e.pushAll bytes).buf = true ∧
      (e.pushAll bytes).len.toNat = e.len.toNat + bytes.length ∧
      ∀ a, (e.pushAll bytes).buf.read a =
        if 2 + e.len.toNat ≤ a then (bytes[a - (2 + e.len.toNat)]?).getD (e.buf.read a) else e.buf.read a := by
  induction bytes with
  | nil => exact fun e hwf hin _ => ⟨hwf, hin, rfl, fun a => by simp⟩
  | cons v bytes ih =>
    intro e hwf hin hfit
    rw [List.length_cons, Config.maxLen] at hfit
    have hlen : (e.push v).len.toNat = e.len.toNat + 1 := by
      show (e.len + 1#8).toNat = _
      rw [BitVec.toNat_add, BitVec.toNat_ofNat]
      omega
    obtain ⟨hwf', hin', hread⟩ := Memory.store_spec Config.maxFrame (2 + e.len.toNat) v hwf hin
    obtain ⟨hw, hi, hl, hr⟩ := ih (e.push v) hwf' hin' (by rw [hlen, Config.maxLen]; omega)
    refine ⟨hw, hi, by rw [pushAll_cons, hl, hlen, List.length_cons]; omega, fun a => ?_⟩
    rw [pushAll_cons, hr a, hlen, push_buf, hread a]
    have hsize : 2 + e.len.toNat < Config.maxFrame := by rw [Config.maxFrame]; omega
    by_cases h1 : 2 + e.len.toNat + 1 ≤ a
    · have h2 : a - (2 + e.len.toNat) = a - (2 + (e.len.toNat + 1)) + 1 := by omega
      have h3 : ¬(a = 2 + e.len.toNat ∧ 2 + e.len.toNat < Config.maxFrame) := by omega
      rw [if_pos (show 2 + (e.len.toNat + 1) ≤ a by omega), if_neg h3, if_pos (show 2 + e.len.toNat ≤ a by omega), h2,
        List.getElem?_cons_succ]
    · rw [if_neg (show ¬2 + (e.len.toNat + 1) ≤ a by omega)]
      by_cases h2 : a = 2 + e.len.toNat
      · subst h2
        rw [if_pos ⟨rfl, hsize⟩, if_pos (le_refl _), Nat.sub_self]
        rfl
      · rw [if_neg (fun h => h2 h.1), if_neg (show ¬2 + e.len.toNat ≤ a by omega)]

/-! ## An append -/

theorem encAppend_of_closed (off : Offset) (bytes : List Byte) {s : State} (h : s.enc.state ≠ .opened) :
    encAppend off bytes s = { s with enc := { s.enc with seqErr := true } }.raise .write off .sequence := by
  rw [encAppend, if_pos h]

theorem encAppend_of_overflow (off : Offset) {bytes : List Byte} {s : State} (h : s.enc.state = .opened)
    (hfull : Config.maxLen < s.enc.len.toNat + bytes.length) :
    encAppend off bytes s = { s with enc := { s.enc with overflow := true } }.raise .write off .overflow := by
  rw [encAppend, if_neg (by simp [h]), if_pos hfull]

theorem encAppend_of_fits (off : Offset) {bytes : List Byte} {s : State} (h : s.enc.state = .opened)
    (hfit : s.enc.len.toNat + bytes.length ≤ Config.maxLen) :
    encAppend off bytes s = { s with enc := s.enc.pushAll bytes }.ok := by
  rw [encAppend, if_neg (by simp [h]), if_neg (by omega)]

/-- Everything an append can do. -/
theorem encAppend_cases (off : Offset) (bytes : List Byte) (s : State) :
    (s.enc.state ≠ .opened ∧
      encAppend off bytes s = { s with enc := { s.enc with seqErr := true } }.raise .write off .sequence) ∨
    (s.enc.state = .opened ∧ Config.maxLen < s.enc.len.toNat + bytes.length ∧
      encAppend off bytes s = { s with enc := { s.enc with overflow := true } }.raise .write off .overflow) ∨
    (s.enc.state = .opened ∧ s.enc.len.toNat + bytes.length ≤ Config.maxLen ∧
      encAppend off bytes s = { s with enc := s.enc.pushAll bytes }.ok) := by
  by_cases h : s.enc.state = .opened
  · by_cases hfit : s.enc.len.toNat + bytes.length ≤ Config.maxLen
    · exact .inr (.inr ⟨h, hfit, encAppend_of_fits off h hfit⟩)
    · exact .inr (.inl ⟨h, by omega, encAppend_of_overflow off h (by omega)⟩)
  · exact .inl ⟨h, encAppend_of_closed off bytes h⟩

/-! ## BEGIN and FINALIZE -/

theorem Encoder.begin_buf_wf (e : Encoder) (t c : Byte) : (e.begin t c).buf.wf = true :=
  Memory.wf_write _ _ (Memory.wf_write _ _ (Memory.wf_write _ _ (Memory.wf_write _ _ rfl)))

theorem Encoder.begin_buf_within (e : Encoder) (t c : Byte) :
    Memory.within Config.maxFrame (e.begin t c).buf = true := by
  refine Memory.within_write _ ?_ (Memory.within_write _ ?_ (Memory.within_write _ ?_ (Memory.within_write _ ?_ rfl)))
  all_goals decide

/-- Every byte of the buffer after BEGIN. -/
theorem Encoder.begin_buf_read (e : Encoder) (t c : Byte) (a : Nat) :
    (e.begin t c).buf.read a = if a = 0 then 0xD5#8 else if a = 2 then t else if a = 3 then c else 0x00#8 := by
  have w0 : Memory.wf (Memory.zeros.write 0 Config.sentinel) = true := Memory.wf_write _ _ rfl
  have w1 := Memory.wf_write 1 0x00#8 w0
  have w2 := Memory.wf_write 2 t w1
  show Memory.read (Memory.write _ 3 c) a = _
  rw [Memory.read_write _ _ _ w2, Memory.read_write _ _ _ w1, Memory.read_write _ _ _ w0,
    Memory.read_write _ _ _ (show Memory.wf Memory.zeros = true from rfl)]
  have hz : Memory.read Memory.zeros a = 0x00#8 := rfl
  rw [hz, Config.sentinel]
  split_ifs <;> first | rfl | omega

@[simp] theorem Encoder.finalize_state (e : Encoder) : e.finalize.state = .done := rfl
@[simp] theorem Encoder.finalize_len (e : Encoder) : e.finalize.len = e.len := rfl
@[simp] theorem Encoder.finalize_crc (e : Encoder) : e.finalize.crc = e.crc := rfl

/-- What FINALIZE does to the buffer: the length in byte 1, the trailer after the body, nothing else. -/
theorem Encoder.finalize_spec {e : Encoder} (hwf : e.buf.wf = true) (hin : Memory.within Config.maxFrame e.buf = true) :
    e.finalize.buf.wf = true ∧ Memory.within Config.maxFrame e.finalize.buf = true ∧
      ∀ a, e.finalize.buf.read a =
        if a = 2 + e.len.toNat then e.crc else if a = 1 then e.len else e.buf.read a := by
  obtain ⟨w1, i1, r1⟩ := Memory.store_spec Config.maxFrame 1 e.len hwf hin
  obtain ⟨w2, i2, r2⟩ := Memory.store_spec Config.maxFrame (2 + e.len.toNat) e.crc w1 i1
  refine ⟨w2, i2, fun a => ?_⟩
  have hlen := e.len.isLt
  have hsize : 2 + e.len.toNat < Config.maxFrame := by rw [Config.maxFrame]; omega
  show Memory.read (Memory.store _ _ _ _) a = _
  rw [r2 a, r1 a]
  simp only [hsize, and_true, show 1 < Config.maxFrame from by decide]

end Sys2Proof.Machine
end

