-- ==== Sys2Proof/Laws/Flags.lean ====
section
/-!
SUPPORT. The numbers that the status words stand for, and from them each field of each word, so that no later proof
takes a concatenation apart.
-/

namespace Sys2Proof.Machine

/-! ## Concatenations, fields and bits as numbers -/

theorem toNat_join {n m : Nat} (hi : BitVec n) (lo : BitVec m) : (hi ++ lo).toNat = hi.toNat * 2 ^ m + lo.toNat := by
  rw [BitVec.toNat_append, ← Nat.shiftLeft_add_eq_or_of_lt lo.isLt, Nat.shiftLeft_eq]

theorem toNat_ofBool (b : Bool) : (BitVec.ofBool b).toNat = b.toNat := by cases b <;> rfl

/-- A field of a word, from the number the word stands for. -/
theorem field_eq {w lo n : Nat} {x : BitVec w} {v : BitVec n} (h : x.toNat / 2 ^ lo % 2 ^ n = v.toNat) :
    x.extractLsb' lo n = v := by
  apply BitVec.eq_of_toNat_eq
  rw [BitVec.extractLsb'_toNat, Nat.shiftRight_eq_div_pow, h]

/-- A bit of a word, from the number the word stands for. -/
theorem bit_eq {w i : Nat} {x : BitVec w} {b : Bool} (h : x.toNat / 2 ^ i % 2 = b.toNat) : x.getLsbD i = b := by
  rw [BitVec.getLsbD, Nat.testBit_eq_decide_div_mod_eq, h]
  cases b <;> rfl

theorem toNat_le_one (b : Bool) : b.toNat ≤ 1 := by cases b <;> decide

/-! ## GLB_ERR -/

theorem errorRecord_toNat (d : Dir) (off : Offset) (c : Cause) :
    (errorRecord d off c).toNat = off.toNat * 2 ^ 16 + (dirBit d).toNat * 16 + (causeCode c).toNat := by
  refine (toNat_join (0#4 ++ off ++ 0#11 ++ dirBit d) (causeCode c)).trans ?_
  simp only [toNat_join]
  simp
  omega

theorem errorRecord_cause (d : Dir) (off : Offset) (c : Cause) : (errorRecord d off c).extractLsb' 0 4 = causeCode c := by
  refine field_eq ?_
  rw [errorRecord_toNat]
  have := (causeCode c).isLt
  omega

theorem errorRecord_write (d : Dir) (off : Offset) (c : Cause) : (errorRecord d off c).getLsbD 4 = (d == .write) := by
  refine bit_eq ?_
  rw [errorRecord_toNat]
  have := (causeCode c).isLt
  cases d <;> simp [dirBit, show (Dir.read == Dir.write) = false from rfl] <;> omega

theorem errorRecord_low_zero (d : Dir) (off : Offset) (c : Cause) : (errorRecord d off c).extractLsb' 5 11 = 0#11 := by
  refine field_eq ?_
  rw [errorRecord_toNat]
  have h1 := (causeCode c).isLt
  have h2 := (dirBit d).isLt
  simp only [BitVec.toNat_ofNat]
  omega

theorem errorRecord_offset (d : Dir) (off : Offset) (c : Cause) : (errorRecord d off c).extractLsb' 16 12 = off := by
  refine field_eq ?_
  rw [errorRecord_toNat]
  have h1 := (causeCode c).isLt
  have h2 := (dirBit d).isLt
  have h3 := off.isLt
  omega

theorem errorRecord_high_zero (d : Dir) (off : Offset) (c : Cause) : (errorRecord d off c).extractLsb' 28 4 = 0#4 := by
  refine field_eq ?_
  rw [errorRecord_toNat]
  have h1 := (causeCode c).isLt
  have h2 := (dirBit d).isLt
  have h3 := off.isLt
  simp only [BitVec.toNat_ofNat]
  omega

/-! ## ENC_STATUS -/

theorem encStatusWord_toNat (e : Encoder) :
    (encStatusWord e).toNat = e.crc.toNat * 2 ^ 16 + e.len.toNat * 2 ^ 8 + e.seqErr.toNat * 8 + e.overflow.toNat * 4 +
      (encStateCode e.state).toNat := by
  refine (toNat_join (0#8 ++ e.crc ++ e.len ++ 0#4 ++ BitVec.ofBool e.seqErr ++ BitVec.ofBool e.overflow)
    (encStateCode e.state)).trans ?_
  simp only [toNat_join, toNat_ofBool]
  simp
  omega

/-! ## DEC_STATUS and DEC_ERRINFO -/

theorem decStatusWord_toNat (d : Decoder) :
    (decStatusWord d).toNat = d.crc.toNat * 2 ^ 24 + d.count.toNat * 2 ^ 16 + d.len.toNat * 2 ^ 8 +
      d.crcErr.toNat * 16 + (decPhaseCode d.phase).toNat := by
  refine (toNat_join (d.crc ++ d.count ++ d.len ++ 0#3 ++ BitVec.ofBool d.crcErr ++ 0#1) (decPhaseCode d.phase)).trans ?_
  simp only [toNat_join, toNat_ofBool]
  simp
  omega

theorem decErrinfoWord_toNat (d : Decoder) :
    (decErrinfoWord d).toNat = d.mismatchCnt.toNat * 2 ^ 16 + d.calcCrc.toNat * 2 ^ 8 + d.rxCrc.toNat := by
  refine (toNat_join (d.mismatchCnt ++ d.calcCrc) d.rxCrc).trans ?_
  simp only [toNat_join]
  omega

/-! ## RD_STATUS and RD_CODE -/

theorem rdAvail_lt (d : Decoder) (r : Reader) : rdAvail d r < 256 := by
  have := d.len.isLt
  unfold rdAvail
  split <;> omega

theorem rdStatusWord_toNat (d : Decoder) (r : Reader) :
    (rdStatusWord d r).toNat = r.notReady.toNat * 2 ^ 18 + r.pastEnd.toNat * 2 ^ 17 + d.ready.toNat * 2 ^ 16 +
      rdAvail d r * 2 ^ 8 + r.cursor.toNat := by
  refine (toNat_join (0#13 ++ BitVec.ofBool r.notReady ++ BitVec.ofBool r.pastEnd ++ BitVec.ofBool d.ready ++
    BitVec.ofNat 8 (rdAvail d r)) r.cursor).trans ?_
  simp only [toNat_join, toNat_ofBool, BitVec.toNat_ofNat, Nat.mod_eq_of_lt (rdAvail_lt d r)]
  omega

theorem rdCodeWord_toNat (ok code : Byte) : (rdCodeWord ok code).toNat = (code == ok).toNat * 2 ^ 8 + code.toNat := by
  refine (toNat_join (0#23 ++ BitVec.ofBool (code == ok)) code).trans ?_
  simp only [toNat_join, toNat_ofBool]
  simp

/-! ## MV_STATUS, TQ_RESULT and PARAM -/

theorem mvStatusWord_toNat (p : Planner) :
    (mvStatusWord p).toNat = p.seqErr.toNat * 32 + p.segValid.toNat * 16 + p.ticksSat.toNat * 8 +
      p.feedZero.toNat * 4 + p.zeroMove.toNat * 2 + p.planned.toNat := by
  refine (toNat_join (0#26 ++ BitVec.ofBool p.seqErr ++ BitVec.ofBool p.segValid ++ BitVec.ofBool p.ticksSat ++
    BitVec.ofBool p.feedZero ++ BitVec.ofBool p.zeroMove) (BitVec.ofBool p.planned)).trans ?_
  simp only [toNat_join, toNat_ofBool]
  simp
  omega

theorem timerWord_toNat (t : TimerSetting) :
    (timerWord t).toNat = t.sat.toNat * 2 ^ 24 + t.band % 8 * 2 ^ 16 + t.counter % 2 ^ 16 := by
  refine (toNat_join (0#7 ++ BitVec.ofBool t.sat ++ 0#5 ++ BitVec.ofNat 3 t.band) (BitVec.ofNat 16 t.counter)).trans ?_
  simp only [toNat_join, toNat_ofBool, BitVec.toNat_ofNat]
  omega

theorem paramWord_toNat (ok : Byte) : (paramWord ok).toNat = 4 * 2 ^ 16 + ok.toNat * 2 ^ 8 + 0xD5 := by
  refine (toNat_join (0#13 ++ 4#3 ++ ok) Config.sentinel).trans ?_
  simp only [toNat_join, BitVec.toNat_ofNat, Config.sentinel]
  omega

/-! ## Window words -/

theorem packWord_toNat (b0 b1 b2 b3 : Byte) :
    (packWord b0 b1 b2 b3).toNat = b3.toNat * 2 ^ 24 + b2.toNat * 2 ^ 16 + b1.toNat * 2 ^ 8 + b0.toNat := by
  refine (toNat_join (b3 ++ b2 ++ b1) b0).trans ?_
  simp only [toNat_join]
  omega

/-- Byte `j` of a window word is byte `4k + j` of the window. -/
theorem windowWord_byte (b : Nat → Byte) (k j : Nat) (hj : j < 4) :
    (windowWord b k).extractLsb' (8 * j) 8 = b (4 * k + j) := by
  have h0 := (b (4 * k)).isLt
  have h1 := (b (4 * k + 1)).isLt
  have h2 := (b (4 * k + 2)).isLt
  have h3 := (b (4 * k + 3)).isLt
  refine field_eq ?_
  rw [windowWord, packWord_toNat]
  obtain rfl | rfl | rfl | rfl : j = 0 ∨ j = 1 ∨ j = 2 ∨ j = 3 := by omega
  all_goals
    simp only [Nat.mul_zero, Nat.mul_one, Nat.add_zero, Nat.reduceMul]
    omega

end Sys2Proof.Machine
end

