-- ==== Sys2Proof/Laws/PerInstr.lean ====
section
/-!
SUPPORT. Facts said of every operation, one lemma per constructor of `Instr`.
-/

/-- The access of an operation passes the generic checks of spec/60_exceptions.md R261: four bytes, aligned, at a mapped
offset, in a direction that the register takes. -/
def Sys2Proof.Laws.EncodeLegal.Statement (i : Sys2Proof.Instr) : Prop :=
  i.wf = true → (Sys2Proof.encode i).size = 4 ∧ (Sys2Proof.encode i).off.toNat % 4 = 0 ∧
    (Sys2Proof.offsetKind (Sys2Proof.encode i).off).any (fun kind => kind.allows (Sys2Proof.encode i).dir) = true

namespace Sys2Proof.Laws

/-- The statement for an operation at a fixed offset, from the facts about that offset. -/
theorem encodeLegal_at {i : Instr} {dir : Dir} {off : Offset} (hs : (encode i).size = 4) (hd : (encode i).dir = dir)
    (ho : (encode i).off = off)
    (h : off.toNat % 4 = 0 ∧ (offsetKind off).any (fun kind => kind.allows dir) = true) : EncodeLegal.Statement i := by
  intro _
  rw [hd, ho]
  exact ⟨hs, h⟩

/-- The words of the two windows, all of them. -/
theorem windows_legal : ∀ k < 256,
    ((Off.encFrame + BitVec.ofNat 12 (4 * k)).toNat % 4 = 0 ∧
      (offsetKind (Off.encFrame + BitVec.ofNat 12 (4 * k))).any (fun kind => kind.allows .read) = true) ∧
    ((Off.decBody + BitVec.ofNat 12 (4 * k)).toNat % 4 = 0 ∧
      (offsetKind (Off.decBody + BitVec.ofNat 12 (4 * k))).any (fun kind => kind.allows .read) = true) := by
  decide +kernel

end Sys2Proof.Laws

theorem Sys2Proof.Laws.EncodeLegal.sysId :
    Sys2Proof.Laws.EncodeLegal.Statement .sysId :=
  Sys2Proof.Laws.encodeLegal_at (dir := .read) (off := Sys2Proof.Off.id) rfl rfl rfl (by decide)

theorem Sys2Proof.Laws.EncodeLegal.sysVersion :
    Sys2Proof.Laws.EncodeLegal.Statement .sysVersion :=
  Sys2Proof.Laws.encodeLegal_at (dir := .read) (off := Sys2Proof.Off.version) rfl rfl rfl (by decide)

theorem Sys2Proof.Laws.EncodeLegal.sysCtrl (softReset clrErr : Bool) :
    Sys2Proof.Laws.EncodeLegal.Statement (.sysCtrl softReset clrErr) :=
  Sys2Proof.Laws.encodeLegal_at (dir := .write) (off := Sys2Proof.Off.glbCtrl) rfl rfl rfl (by decide)

theorem Sys2Proof.Laws.EncodeLegal.sysParam :
    Sys2Proof.Laws.EncodeLegal.Statement .sysParam :=
  Sys2Proof.Laws.encodeLegal_at (dir := .read) (off := Sys2Proof.Off.param) rfl rfl rfl (by decide)

theorem Sys2Proof.Laws.EncodeLegal.sysErr :
    Sys2Proof.Laws.EncodeLegal.Statement .sysErr :=
  Sys2Proof.Laws.encodeLegal_at (dir := .read) (off := Sys2Proof.Off.glbErr) rfl rfl rfl (by decide)

theorem Sys2Proof.Laws.EncodeLegal.crcCtrl (reset : Bool) :
    Sys2Proof.Laws.EncodeLegal.Statement (.crcCtrl reset) :=
  Sys2Proof.Laws.encodeLegal_at (dir := .write) (off := Sys2Proof.Off.crcCtrl) rfl rfl rfl (by decide)

theorem Sys2Proof.Laws.EncodeLegal.crcUpdate (byte : Sys2Proof.Byte) :
    Sys2Proof.Laws.EncodeLegal.Statement (.crcUpdate byte) :=
  Sys2Proof.Laws.encodeLegal_at (dir := .write) (off := Sys2Proof.Off.crcData) rfl rfl rfl (by decide)

theorem Sys2Proof.Laws.EncodeLegal.crcValue :
    Sys2Proof.Laws.EncodeLegal.Statement .crcValue :=
  Sys2Proof.Laws.encodeLegal_at (dir := .read) (off := Sys2Proof.Off.crcValue) rfl rfl rfl (by decide)

theorem Sys2Proof.Laws.EncodeLegal.encBegin (target command : Sys2Proof.Byte) :
    Sys2Proof.Laws.EncodeLegal.Statement (.encBegin target command) :=
  Sys2Proof.Laws.encodeLegal_at (dir := .write) (off := Sys2Proof.Off.encBegin) rfl rfl rfl (by decide)

theorem Sys2Proof.Laws.EncodeLegal.encAdd8 (value : Sys2Proof.Byte) :
    Sys2Proof.Laws.EncodeLegal.Statement (.encAdd8 value) :=
  Sys2Proof.Laws.encodeLegal_at (dir := .write) (off := Sys2Proof.Off.encAdd8) rfl rfl rfl (by decide)

theorem Sys2Proof.Laws.EncodeLegal.encAdd16 (value : Sys2Proof.Half) :
    Sys2Proof.Laws.EncodeLegal.Statement (.encAdd16 value) :=
  Sys2Proof.Laws.encodeLegal_at (dir := .write) (off := Sys2Proof.Off.encAdd16) rfl rfl rfl (by decide)

theorem Sys2Proof.Laws.EncodeLegal.encAdd32 (value : Sys2Proof.Word) :
    Sys2Proof.Laws.EncodeLegal.Statement (.encAdd32 value) :=
  Sys2Proof.Laws.encodeLegal_at (dir := .write) (off := Sys2Proof.Off.encAdd32) rfl rfl rfl (by decide)

theorem Sys2Proof.Laws.EncodeLegal.encFinalize :
    Sys2Proof.Laws.EncodeLegal.Statement .encFinalize :=
  Sys2Proof.Laws.encodeLegal_at (dir := .write) (off := Sys2Proof.Off.encFinalize) rfl rfl rfl (by decide)

theorem Sys2Proof.Laws.EncodeLegal.encStatus :
    Sys2Proof.Laws.EncodeLegal.Statement .encStatus :=
  Sys2Proof.Laws.encodeLegal_at (dir := .read) (off := Sys2Proof.Off.encStatus) rfl rfl rfl (by decide)

theorem Sys2Proof.Laws.EncodeLegal.encFramelen :
    Sys2Proof.Laws.EncodeLegal.Statement .encFramelen :=
  Sys2Proof.Laws.encodeLegal_at (dir := .read) (off := Sys2Proof.Off.encFrameLen) rfl rfl rfl (by decide)

theorem Sys2Proof.Laws.EncodeLegal.encCtrl (clrErr abort : Bool) :
    Sys2Proof.Laws.EncodeLegal.Statement (.encCtrl clrErr abort) :=
  Sys2Proof.Laws.encodeLegal_at (dir := .write) (off := Sys2Proof.Off.encCtrl) rfl rfl rfl (by decide)

theorem Sys2Proof.Laws.EncodeLegal.encFrame (k : Nat) :
    Sys2Proof.Laws.EncodeLegal.Statement (.encFrame k) :=
  fun h => ⟨rfl, (Sys2Proof.Laws.windows_legal k (of_decide_eq_true h)).1⟩

theorem Sys2Proof.Laws.EncodeLegal.decCtrl (reset clrErr : Bool) :
    Sys2Proof.Laws.EncodeLegal.Statement (.decCtrl reset clrErr) :=
  Sys2Proof.Laws.encodeLegal_at (dir := .write) (off := Sys2Proof.Off.decCtrl) rfl rfl rfl (by decide)

theorem Sys2Proof.Laws.EncodeLegal.decPush (byte : Sys2Proof.Byte) :
    Sys2Proof.Laws.EncodeLegal.Statement (.decPush byte) :=
  Sys2Proof.Laws.encodeLegal_at (dir := .write) (off := Sys2Proof.Off.decData) rfl rfl rfl (by decide)

theorem Sys2Proof.Laws.EncodeLegal.decStatus :
    Sys2Proof.Laws.EncodeLegal.Statement .decStatus :=
  Sys2Proof.Laws.encodeLegal_at (dir := .read) (off := Sys2Proof.Off.decStatus) rfl rfl rfl (by decide)

theorem Sys2Proof.Laws.EncodeLegal.decErrinfo :
    Sys2Proof.Laws.EncodeLegal.Statement .decErrinfo :=
  Sys2Proof.Laws.encodeLegal_at (dir := .read) (off := Sys2Proof.Off.decErrinfo) rfl rfl rfl (by decide)

theorem Sys2Proof.Laws.EncodeLegal.decBody (k : Nat) :
    Sys2Proof.Laws.EncodeLegal.Statement (.decBody k) :=
  fun h => ⟨rfl, (Sys2Proof.Laws.windows_legal k (of_decide_eq_true h)).2⟩

theorem Sys2Proof.Laws.EncodeLegal.rdCtrl (rewind clrErr : Bool) :
    Sys2Proof.Laws.EncodeLegal.Statement (.rdCtrl rewind clrErr) :=
  Sys2Proof.Laws.encodeLegal_at (dir := .write) (off := Sys2Proof.Off.rdCtrl) rfl rfl rfl (by decide)

theorem Sys2Proof.Laws.EncodeLegal.rdCode :
    Sys2Proof.Laws.EncodeLegal.Statement .rdCode :=
  Sys2Proof.Laws.encodeLegal_at (dir := .read) (off := Sys2Proof.Off.rdCode) rfl rfl rfl (by decide)

theorem Sys2Proof.Laws.EncodeLegal.rdGet8 :
    Sys2Proof.Laws.EncodeLegal.Statement .rdGet8 :=
  Sys2Proof.Laws.encodeLegal_at (dir := .read) (off := Sys2Proof.Off.rdGet8) rfl rfl rfl (by decide)

theorem Sys2Proof.Laws.EncodeLegal.rdGet16 :
    Sys2Proof.Laws.EncodeLegal.Statement .rdGet16 :=
  Sys2Proof.Laws.encodeLegal_at (dir := .read) (off := Sys2Proof.Off.rdGet16) rfl rfl rfl (by decide)

theorem Sys2Proof.Laws.EncodeLegal.rdGet32 :
    Sys2Proof.Laws.EncodeLegal.Statement .rdGet32 :=
  Sys2Proof.Laws.encodeLegal_at (dir := .read) (off := Sys2Proof.Off.rdGet32) rfl rfl rfl (by decide)

theorem Sys2Proof.Laws.EncodeLegal.rdStatus :
    Sys2Proof.Laws.EncodeLegal.Statement .rdStatus :=
  Sys2Proof.Laws.encodeLegal_at (dir := .read) (off := Sys2Proof.Off.rdStatus) rfl rfl rfl (by decide)

theorem Sys2Proof.Laws.EncodeLegal.tqSet (ticks : Sys2Proof.Word) :
    Sys2Proof.Laws.EncodeLegal.Statement (.tqSet ticks) :=
  Sys2Proof.Laws.encodeLegal_at (dir := .write) (off := Sys2Proof.Off.tqTicks) rfl rfl rfl (by decide)

theorem Sys2Proof.Laws.EncodeLegal.tqGet :
    Sys2Proof.Laws.EncodeLegal.Statement .tqGet :=
  Sys2Proof.Laws.encodeLegal_at (dir := .read) (off := Sys2Proof.Off.tqTicks) rfl rfl rfl (by decide)

theorem Sys2Proof.Laws.EncodeLegal.tqResult :
    Sys2Proof.Laws.EncodeLegal.Statement .tqResult :=
  Sys2Proof.Laws.encodeLegal_at (dir := .read) (off := Sys2Proof.Off.tqResult) rfl rfl rfl (by decide)

theorem Sys2Proof.Laws.EncodeLegal.mvSetdx (value : Sys2Proof.Word) :
    Sys2Proof.Laws.EncodeLegal.Statement (.mvSetdx value) :=
  Sys2Proof.Laws.encodeLegal_at (dir := .write) (off := Sys2Proof.Off.mvDx) rfl rfl rfl (by decide)

theorem Sys2Proof.Laws.EncodeLegal.mvGetdx :
    Sys2Proof.Laws.EncodeLegal.Statement .mvGetdx :=
  Sys2Proof.Laws.encodeLegal_at (dir := .read) (off := Sys2Proof.Off.mvDx) rfl rfl rfl (by decide)

theorem Sys2Proof.Laws.EncodeLegal.mvSetdy (value : Sys2Proof.Word) :
    Sys2Proof.Laws.EncodeLegal.Statement (.mvSetdy value) :=
  Sys2Proof.Laws.encodeLegal_at (dir := .write) (off := Sys2Proof.Off.mvDy) rfl rfl rfl (by decide)

theorem Sys2Proof.Laws.EncodeLegal.mvGetdy :
    Sys2Proof.Laws.EncodeLegal.Statement .mvGetdy :=
  Sys2Proof.Laws.encodeLegal_at (dir := .read) (off := Sys2Proof.Off.mvDy) rfl rfl rfl (by decide)

theorem Sys2Proof.Laws.EncodeLegal.mvSetdz (value : Sys2Proof.Word) :
    Sys2Proof.Laws.EncodeLegal.Statement (.mvSetdz value) :=
  Sys2Proof.Laws.encodeLegal_at (dir := .write) (off := Sys2Proof.Off.mvDz) rfl rfl rfl (by decide)

theorem Sys2Proof.Laws.EncodeLegal.mvGetdz :
    Sys2Proof.Laws.EncodeLegal.Statement .mvGetdz :=
  Sys2Proof.Laws.encodeLegal_at (dir := .read) (off := Sys2Proof.Off.mvDz) rfl rfl rfl (by decide)

theorem Sys2Proof.Laws.EncodeLegal.mvSetfeed (value : Sys2Proof.Word) :
    Sys2Proof.Laws.EncodeLegal.Statement (.mvSetfeed value) :=
  Sys2Proof.Laws.encodeLegal_at (dir := .write) (off := Sys2Proof.Off.mvFeed) rfl rfl rfl (by decide)

theorem Sys2Proof.Laws.EncodeLegal.mvGetfeed :
    Sys2Proof.Laws.EncodeLegal.Statement .mvGetfeed :=
  Sys2Proof.Laws.encodeLegal_at (dir := .read) (off := Sys2Proof.Off.mvFeed) rfl rfl rfl (by decide)

theorem Sys2Proof.Laws.EncodeLegal.mvK :
    Sys2Proof.Laws.EncodeLegal.Statement .mvK :=
  Sys2Proof.Laws.encodeLegal_at (dir := .read) (off := Sys2Proof.Off.mvK) rfl rfl rfl (by decide)

theorem Sys2Proof.Laws.EncodeLegal.mvCtrl (plan clrErr : Bool) :
    Sys2Proof.Laws.EncodeLegal.Statement (.mvCtrl plan clrErr) :=
  Sys2Proof.Laws.encodeLegal_at (dir := .write) (off := Sys2Proof.Off.mvCtrl) rfl rfl rfl (by decide)

theorem Sys2Proof.Laws.EncodeLegal.mvStatus :
    Sys2Proof.Laws.EncodeLegal.Statement .mvStatus :=
  Sys2Proof.Laws.encodeLegal_at (dir := .read) (off := Sys2Proof.Off.mvStatus) rfl rfl rfl (by decide)

theorem Sys2Proof.Laws.EncodeLegal.mvTicks :
    Sys2Proof.Laws.EncodeLegal.Statement .mvTicks :=
  Sys2Proof.Laws.encodeLegal_at (dir := .read) (off := Sys2Proof.Off.mvTicks) rfl rfl rfl (by decide)

theorem Sys2Proof.Laws.EncodeLegal.mvTimer :
    Sys2Proof.Laws.EncodeLegal.Statement .mvTimer :=
  Sys2Proof.Laws.encodeLegal_at (dir := .read) (off := Sys2Proof.Off.mvTimer) rfl rfl rfl (by decide)

theorem Sys2Proof.Laws.EncodeLegal.mvNseg :
    Sys2Proof.Laws.EncodeLegal.Statement .mvNseg :=
  Sys2Proof.Laws.encodeLegal_at (dir := .read) (off := Sys2Proof.Off.mvNseg) rfl rfl rfl (by decide)

theorem Sys2Proof.Laws.EncodeLegal.mvSegleft :
    Sys2Proof.Laws.EncodeLegal.Statement .mvSegleft :=
  Sys2Proof.Laws.encodeLegal_at (dir := .read) (off := Sys2Proof.Off.mvSegLeft) rfl rfl rfl (by decide)

theorem Sys2Proof.Laws.EncodeLegal.mvSegdx :
    Sys2Proof.Laws.EncodeLegal.Statement .mvSegdx :=
  Sys2Proof.Laws.encodeLegal_at (dir := .read) (off := Sys2Proof.Off.mvSegDx) rfl rfl rfl (by decide)

theorem Sys2Proof.Laws.EncodeLegal.mvSegdy :
    Sys2Proof.Laws.EncodeLegal.Statement .mvSegdy :=
  Sys2Proof.Laws.encodeLegal_at (dir := .read) (off := Sys2Proof.Off.mvSegDy) rfl rfl rfl (by decide)

theorem Sys2Proof.Laws.EncodeLegal.mvSegdz :
    Sys2Proof.Laws.EncodeLegal.Statement .mvSegdz :=
  Sys2Proof.Laws.encodeLegal_at (dir := .read) (off := Sys2Proof.Off.mvSegDz) rfl rfl rfl (by decide)

theorem Sys2Proof.Laws.EncodeLegal.mvSegindex :
    Sys2Proof.Laws.EncodeLegal.Statement .mvSegindex :=
  Sys2Proof.Laws.encodeLegal_at (dir := .read) (off := Sys2Proof.Off.mvSegIndex) rfl rfl rfl (by decide)

theorem Sys2Proof.Laws.EncodeLegal.mvMaster :
    Sys2Proof.Laws.EncodeLegal.Statement .mvMaster :=
  Sys2Proof.Laws.encodeLegal_at (dir := .read) (off := Sys2Proof.Off.mvMaster) rfl rfl rfl (by decide)

theorem Sys2Proof.Laws.EncodeLegal.mvNext :
    Sys2Proof.Laws.EncodeLegal.Statement .mvNext :=
  Sys2Proof.Laws.encodeLegal_at (dir := .write) (off := Sys2Proof.Off.mvNext) rfl rfl rfl (by decide)
end

