-- ==== Sys2Proof/Laws/Planner.lean ====
section
/-!
SUPPORT. What PLAN and one MV.NEXT do, said once, and the bounds of a share (spec/44_segmenter.md R206 (a) to (c)).
-/

namespace Sys2Proof.Machine

/-! ## Magnitudes and signs -/

/-- The magnitude of a step delta is at most 2^31. -/
theorem natAbs_toInt_le (w : Word) : w.toInt.natAbs ≤ 2 ^ 31 := by
  have h1 := BitVec.toInt_lt (x := w)
  have h2 := BitVec.le_toInt w
  omega

theorem le_masterSteps (m : PerAxis Nat) : m.x ≤ masterSteps m ∧ m.y ≤ masterSteps m ∧ m.z ≤ masterSteps m := by
  rw [masterSteps]
  omega

theorem masterSteps_magnitude_le (p : Planner) : masterSteps p.magnitude ≤ 2 ^ 31 := by
  have hx := natAbs_toInt_le p.delta.x
  have hy := natAbs_toInt_le p.delta.y
  have hz := natAbs_toInt_le p.delta.z
  simp only [masterSteps, Planner.magnitude, PerAxis.map]
  omega

/-- A magnitude with the sign of its delta is the delta. -/
theorem signOf_apply (d : Int) : (signOf d).apply d.natAbs = d := by
  unfold signOf
  split <;> simp only [Sign.apply] <;> omega

/-- A magnitude of at most 2^31 − 1 survives its register, with either sign. -/
theorem toInt_ofInt_apply (g : Sign) {n : Nat} (h : n < 2 ^ 31) : (BitVec.ofInt 32 (g.apply n)).toInt = g.apply n := by
  rw [BitVec.toInt_ofInt]
  cases g <;> simp only [Sign.apply] <;> refine Int.bmod_eq_of_le ?_ ?_ <;> omega

/-! ## The number of segments -/

theorem segCount_zero : segCount 0 = 0 := by decide

/-- Taking 65535 steps off a move that needs more than one segment leaves one segment less. -/
theorem segCount_sub {m : Nat} (h : 65535 < m) : segCount m = segCount (m - 65535) + 1 := by
  simp only [segCount, ceilDiv, Config.segMax]
  omega

theorem segCount_eq_one {m : Nat} (h : 0 < m) (h' : m ≤ 65535) : segCount m = 1 := by
  simp only [segCount, ceilDiv, Config.segMax]
  omega

theorem segCount_lt {m : Nat} (h : m ≤ 2 ^ 31) : segCount m < 2 ^ 32 := by
  simp only [segCount, ceilDiv, Config.segMax]
  omega

theorem segCount_pos {m : Nat} : 0 < segCount m ↔ 0 < m := by
  simp only [segCount, ceilDiv, Config.segMax]
  omega

/-! ## Shares -/

/-- The share of the master axis is 65535. -/
theorem segShare_self {m : Nat} (h : 0 < m) : segShare m m = 65535 := by
  rw [segShare, Config.segMax]
  exact Nat.div_eq_of_lt_le (by nlinarith) (by nlinarith)

theorem segShare_le_segMax {m r : Nat} (h : 0 < m) (hr : r ≤ m) : segShare m r ≤ 65535 := by
  rw [← segShare_self h]
  simp only [segShare, Config.segMax]
  exact Nat.div_le_div_right (by nlinarith)

/-- A share is at most what is left. -/
theorem segShare_le_rem {m r : Nat} (h : 65535 < m) : segShare m r ≤ r := by
  rw [segShare, Config.segMax]
  rw [← Nat.lt_succ_iff, Nat.div_lt_iff_lt_mul (by omega)]
  nlinarith

/-- What is left of an axis after a share is at most what is left of the master axis. -/
theorem rem_sub_segShare_le {m r : Nat} (h : 65535 < m) (hr : r ≤ m) : r - segShare m r ≤ m - 65535 := by
  have key : r ≤ segShare m r + (m - 65535) := by
    rw [segShare, Config.segMax]
    have h1 : r - (m - 65535) ≤ (2 * 65535 * r + m) / (2 * m) := by
      rw [Nat.le_div_iff_mul_le (by omega)]
      by_cases hle : r ≤ m - 65535
      · rw [Nat.sub_eq_zero_of_le hle, Nat.zero_mul]
        exact Nat.zero_le _
      · obtain ⟨k, rfl⟩ := Nat.exists_eq_add_of_le (show m - 65535 ≤ r by omega)
        obtain ⟨j, rfl⟩ := Nat.exists_eq_add_of_lt h
        have hj : 65535 + j + 1 - 65535 = j + 1 := by omega
        rw [hj] at hr ⊢
        have hk : k ≤ 65535 := by omega
        rw [Nat.add_sub_cancel_left]
        nlinarith [Nat.mul_le_mul_left (j + 1) hk]
    omega
  omega

/-! ## PLAN -/

theorem Planner.plan_of_zeroMove (k : Nat) {p : Planner} (h : masterSteps p.magnitude = 0) :
    p.plan k = { p.clearPlan with planned := true, zeroMove := true } := if_pos h

theorem Planner.plan_of_feedZero (k : Nat) {p : Planner} (h : masterSteps p.magnitude ≠ 0) (hf : p.feed.toNat = 0) :
    p.plan k = { p.clearPlan with feedZero := true } := by
  rw [plan]
  exact (if_neg h).trans (if_pos hf)

theorem Planner.plan_of_move (k : Nat) {p : Planner} (h : masterSteps p.magnitude ≠ 0) (hf : p.feed.toNat ≠ 0) :
    p.plan k =
      let exact := ticksExact k (distanceSquared p.magnitude) (masterSteps p.magnitude) p.feed.toNat
      { p.clearPlan with
        planned := true
        master := BitVec.ofNat 32 (masterSteps p.magnitude)
        ticks := BitVec.ofNat 32 (min exact ticksMax)
        ticksSat := decide (exact > ticksMax)
        timer := timerWord (quantize (min exact ticksMax))
        nseg := BitVec.ofNat 32 (segCount (masterSteps p.magnitude))
        segLeft := BitVec.ofNat 32 (segCount (masterSteps p.magnitude))
        sgn := p.direction
        rem := p.magnitude
        remM := masterSteps p.magnitude } := by
  rw [plan]
  exact (if_neg h).trans (if_neg hf)

/-! ## One segment -/

/-- The share of an axis in a segment of a state where `rem ≤ remM`: it fits a segment, it is at most what is left, and
what stays is at most what stays of the master axis. -/
theorem segment_share {m r al : Nat} (hr : r ≤ m) (hal : al = if m > Config.segMax then segShare m r else r) :
    al ≤ 65535 ∧ al ≤ r ∧ r - al ≤ m - 65535 := by
  subst hal
  rw [Config.segMax]
  split_ifs with h
  · exact ⟨segShare_le_segMax (by omega) hr, segShare_le_rem h, rem_sub_segShare_le h hr⟩
  · omega

theorem Planner.allocation_x (p : Planner) :
    p.allocation.x = if p.remM > Config.segMax then segShare p.remM p.rem.x else p.rem.x := by
  rw [allocation]
  split <;> rfl

theorem Planner.allocation_y (p : Planner) :
    p.allocation.y = if p.remM > Config.segMax then segShare p.remM p.rem.y else p.rem.y := by
  rw [allocation]
  split <;> rfl

theorem Planner.allocation_z (p : Planner) :
    p.allocation.z = if p.remM > Config.segMax then segShare p.remM p.rem.z else p.rem.z := by
  rw [allocation]
  split <;> rfl

theorem Planner.advance_remM (p : Planner) : p.advance.remM = p.remM - 65535 := by
  show (if p.remM > Config.segMax then p.remM - Config.segMax else 0) = _
  rw [Config.segMax]
  split <;> omega

@[simp] theorem Planner.advance_delta (p : Planner) : p.advance.delta = p.delta := rfl
@[simp] theorem Planner.advance_feed (p : Planner) : p.advance.feed = p.feed := rfl
@[simp] theorem Planner.advance_master (p : Planner) : p.advance.master = p.master := rfl
@[simp] theorem Planner.advance_nseg (p : Planner) : p.advance.nseg = p.nseg := rfl
@[simp] theorem Planner.advance_sgn (p : Planner) : p.advance.sgn = p.sgn := rfl
@[simp] theorem Planner.advance_segLeft (p : Planner) : p.advance.segLeft = p.segLeft - 1 := rfl
@[simp] theorem Planner.advance_segIndex (p : Planner) : p.advance.segIndex = p.segIndex + 1 := rfl
@[simp] theorem Planner.advance_seg (p : Planner) :
    p.advance.seg = p.sgn.zip (fun g n => BitVec.ofInt 32 (g.apply n)) p.allocation := rfl
@[simp] theorem Planner.advance_rem (p : Planner) : p.advance.rem = p.rem.zip (fun r n => r - n) p.allocation := rfl

end Sys2Proof.Machine
end

