-- ==== Sys2Proof/Laws/Quantizer.lean ====
section
/-!
SUPPORT. What `quantize` chooses, band by band: the table of spec/45_quantizer.md R240.
-/

namespace Sys2Proof.Machine

/-- The six rows of R240's table of band ranges. -/
theorem quantize_cases (t : Nat) :
    (t ≤ 65535 ∧ quantize t = ⟨0, t, false⟩) ∨
    (65536 ≤ t ∧ t ≤ 524280 ∧ quantize t = ⟨1, t / 8, false⟩) ∨
    (524281 ≤ t ∧ t ≤ 4194240 ∧ quantize t = ⟨2, t / 64, false⟩) ∨
    (4194241 ≤ t ∧ t ≤ 16776960 ∧ quantize t = ⟨3, t / 256, false⟩) ∨
    (16776961 ≤ t ∧ t ≤ 67107840 ∧ quantize t = ⟨4, t / 1024, false⟩) ∨
    (67107841 ≤ t ∧ quantize t = ⟨4, 65535, true⟩) := by
  have hmin : ∀ f, 0 < f → t ≤ 65535 * f → min (t / f) 65535 = t / f := fun f hf h =>
    Nat.min_eq_left (by rw [Nat.div_le_iff_le_mul_add_pred hf]; omega)
  have hq : quantize t = quantizeFrom t 0 [1, 8, 64, 256, 1024] := rfl
  rw [hq]
  rw [quantizeFrom, quantizeFrom, quantizeFrom, quantizeFrom, quantizeFrom, quantizeFrom, Config.cntMax]
  split_ifs with h0 h1 h2 h3 h4
  · refine .inl ⟨by omega, ?_⟩
    rw [hmin 1 (by decide) (by omega), Nat.div_one]
  · exact .inr (.inl ⟨by omega, by omega, by rw [hmin 8 (by decide) (by omega)]⟩)
  · exact .inr (.inr (.inl ⟨by omega, by omega, by rw [hmin 64 (by decide) (by omega)]⟩))
  · exact .inr (.inr (.inr (.inl ⟨by omega, by omega, by rw [hmin 256 (by decide) (by omega)]⟩)))
  · exact .inr (.inr (.inr (.inr (.inl ⟨by omega, by omega, by rw [hmin 1024 (by decide) (by omega)]⟩))))
  · exact .inr (.inr (.inr (.inr (.inr ⟨by omega, rfl⟩))))

/-- The values fit the fields of TQ_RESULT. -/
theorem quantize_fits (t : Nat) : (quantize t).band < 8 ∧ (quantize t).counter < 2 ^ 16 := by
  rcases quantize_cases t with ⟨h, e⟩ | ⟨h, h', e⟩ | ⟨h, h', e⟩ | ⟨h, h', e⟩ | ⟨h, h', e⟩ | ⟨h, e⟩
  all_goals
    rw [e]
    dsimp only
    omega

end Sys2Proof.Machine
end

