-- ==== Sys2Proof/Laws/Reader.lean ====
section
/-!
SUPPORT. What a get does, said once, and the number that a little-endian byte sequence stands for.
-/

namespace Sys2Proof.Machine

theorem leValue_append (u v : List Byte) : leValue (u ++ v) = leValue u + 256 ^ u.length * leValue v := by
  induction u with
  | nil => simp [leValue]
  | cons b u ih =>
    rw [List.cons_append, leValue, leValue, ih, List.length_cons, pow_succ]
    ring

theorem leValue_lt (u : List Byte) : leValue u < 256 ^ u.length := by
  induction u with
  | nil => simp [leValue]
  | cons b u ih =>
    have hb := b.isLt
    rw [leValue, List.length_cons, pow_succ]
    omega

/-- The value of a slice is the sum of its bytes, each weighted by its position (43_reader.md R184). -/
theorem leValue_slice (m : Memory) (a : Nat) : ∀ n,
    leValue (m.slice a n) = ∑ j ∈ Finset.range n, (m.read (a + j)).toNat * 2 ^ (8 * j)
  | 0 => rfl
  | n + 1 => by
    rw [Memory.slice_succ, leValue_append, leValue_slice m a n, Finset.sum_range_succ, Memory.slice_length,
      show 256 ^ n = 2 ^ (8 * n) by rw [pow_mul]; rfl]
    simp [leValue, Nat.mul_comm]

theorem Decoder.ready_iff (d : Decoder) : d.ready = true ↔ d.phase = .complete := by
  rw [Decoder.ready, beq_iff_eq]

theorem Decoder.not_ready_iff (d : Decoder) : d.ready = false ↔ d.phase ≠ .complete := by
  rw [← Bool.not_eq_true, ready_iff]

theorem rdGet_of_notReady (off : Offset) (n : Nat) {s : State} (h : s.dec.phase ≠ .complete) :
    rdGet off n s = rdNotReady off s := by
  rw [rdGet, if_pos (s.dec.not_ready_iff.mpr h)]

theorem rdGet_of_pastEnd (off : Offset) {n : Nat} {s : State} (h : s.dec.phase = .complete)
    (hn : s.dec.len.toNat < s.rd.cursor.toNat + n) :
    rdGet off n s = { s with rd := { s.rd with pastEnd := true } }.raise .read off .pastEnd := by
  rw [rdGet, if_neg (by simp [(s.dec.ready_iff.mpr h)]), if_pos hn]

theorem rdGet_of_fits (off : Offset) {n : Nat} {s : State} (h : s.dec.phase = .complete)
    (hn : s.rd.cursor.toNat + n ≤ s.dec.len.toNat) :
    rdGet off n s = { s with rd := { s.rd with cursor := s.rd.cursor + BitVec.ofNat 8 n } }.answer
      (BitVec.ofNat 32 (leValue (s.dec.body.slice s.rd.cursor.toNat n))) := by
  rw [rdGet, if_neg (by simp [(s.dec.ready_iff.mpr h)]), if_neg (by omega)]

/-- Everything a get can do. -/
theorem rdGet_cases (off : Offset) (n : Nat) (s : State) :
    (s.dec.phase ≠ .complete ∧ rdGet off n s = rdNotReady off s) ∨
    (s.dec.phase = .complete ∧ s.dec.len.toNat < s.rd.cursor.toNat + n ∧
      rdGet off n s = { s with rd := { s.rd with pastEnd := true } }.raise .read off .pastEnd) ∨
    (s.dec.phase = .complete ∧ s.rd.cursor.toNat + n ≤ s.dec.len.toNat ∧
      rdGet off n s = { s with rd := { s.rd with cursor := s.rd.cursor + BitVec.ofNat 8 n } }.answer
        (BitVec.ofNat 32 (leValue (s.dec.body.slice s.rd.cursor.toNat n)))) := by
  by_cases h : s.dec.phase = .complete
  · by_cases hn : s.rd.cursor.toNat + n ≤ s.dec.len.toNat
    · exact .inr (.inr ⟨h, hn, rdGet_of_fits off h hn⟩)
    · exact .inr (.inl ⟨h, by omega, rdGet_of_pastEnd off h (by omega)⟩)
  · exact .inl ⟨h, rdGet_of_notReady off n h⟩

/-- A get that succeeds moves the cursor past the bytes it read, with no wrap. -/
theorem cursor_add {c len : Byte} {n : Nat} (h : c.toNat + n ≤ len.toNat) :
    (c + BitVec.ofNat 8 n).toNat = c.toNat + n := by
  have := len.isLt
  rw [BitVec.toNat_add, BitVec.toNat_ofNat]
  omega

end Sys2Proof.Machine
end

