-- ==== Sys2Proof/Tests/Slice0.lean ====
section
/-!
SUPPORT. The package's own tests: the checks of WellFormed, the decoding of words written out from
spec/30_encoding.md R83, one step of each operation against the examples of spec/, and for each statement of
Certificates/Slice0/Obligations.lean that has hypotheses a concrete state and operands that meet them.
-/

namespace Sys2Proof.Tests

open Sys2Proof Sys2Proof.Machine

/-! ## WellFormed: what the checks refuse -/

theorem test_wf_refuses_frame_word_256 : Instr.wf (.encFrame 256) = false := by decide
theorem test_wf_refuses_body_word_256 : Instr.wf (.decBody 256) = false := by decide
theorem test_wf_takes_the_last_words : Instr.wf (.encFrame 255) = true ∧ Instr.wf (.decBody 255) = true := by decide

/-! ## Decoding: access words written out from R83, data words in bits 47..16 (log entry 2) -/

/-- 0x0000, 0x0004, 0x1008 with data 1 (SYS.RESET) and 2 (SYS.CLRERR), 0x000C, 0x00F0. -/
theorem test_decode_system :
    decodeTableWord 16 0x0000 = some .sysId ∧ decodeTableWord 16 0x0004 = some .sysVersion ∧
    decodeTableWord 48 0x000000011008 = some (.sysCtrl true false) ∧
    decodeTableWord 48 0x000000021008 = some (.sysCtrl false true) ∧
    decodeTableWord 16 0x000C = some .sysParam ∧ decodeTableWord 16 0x00F0 = some .sysErr := by decide

/-- 0x1010 with data 1 (CRC.RESET), 0x1014 with byte 0x31, 0x0018. -/
theorem test_decode_crc :
    decodeTableWord 48 0x000000011010 = some (.crcCtrl true) ∧
    decodeTableWord 48 0x000000311014 = some (.crcUpdate 0x31#8) ∧
    decodeTableWord 16 0x0018 = some .crcValue := by decide

/-- 0x1020 with `(c << 8) | t` for t = 1, c = 0x0A; 0x1024, 0x1028, 0x102C, 0x1030, 0x0034, 0x0038; 0x103C with data 1
(ENC.CLRERR) and 2 (ENC.ABORT); 0x0400 + 4·255. -/
theorem test_decode_encoder :
    decodeTableWord 48 0x00000A011020 = some (.encBegin 0x01#8 0x0A#8) ∧
    decodeTableWord 48 0x000000051024 = some (.encAdd8 0x05#8) ∧
    decodeTableWord 48 0x000012341028 = some (.encAdd16 0x1234#16) ∧
    decodeTableWord 48 0xDEADBEEF102C = some (.encAdd32 0xDEADBEEF#32) ∧
    decodeTableWord 16 0x1030 = some .encFinalize ∧
    decodeTableWord 16 0x0034 = some .encStatus ∧ decodeTableWord 16 0x0038 = some .encFramelen ∧
    decodeTableWord 48 0x00000001103C = some (.encCtrl true false) ∧
    decodeTableWord 48 0x00000002103C = some (.encCtrl false true) ∧
    decodeTableWord 16 0x07FC = some (.encFrame 255) := by decide

/-- 0x1040 with data 1 (DEC.RESET) and 2 (DEC.CLRERR), 0x1044, 0x0048, 0x004C, 0x0800. -/
theorem test_decode_decoder :
    decodeTableWord 48 0x000000011040 = some (.decCtrl true false) ∧
    decodeTableWord 48 0x000000021040 = some (.decCtrl false true) ∧
    decodeTableWord 48 0x000000D51044 = some (.decPush 0xD5#8) ∧
    decodeTableWord 16 0x0048 = some .decStatus ∧ decodeTableWord 16 0x004C = some .decErrinfo ∧
    decodeTableWord 16 0x0800 = some (.decBody 0) := by decide

/-- 0x1060 with data 1 (RD.REWIND) and 2 (RD.CLRERR), 0x0064, 0x0068, 0x006C, 0x0070, 0x0074. -/
theorem test_decode_reader :
    decodeTableWord 48 0x000000011060 = some (.rdCtrl true false) ∧
    decodeTableWord 48 0x000000021060 = some (.rdCtrl false true) ∧
    decodeTableWord 16 0x0064 = some .rdCode ∧ decodeTableWord 16 0x0068 = some .rdGet8 ∧
    decodeTableWord 16 0x006C = some .rdGet16 ∧ decodeTableWord 16 0x0070 = some .rdGet32 ∧
    decodeTableWord 16 0x0074 = some .rdStatus := by decide

/-- 0x1080, 0x0080, 0x0084. -/
theorem test_decode_quantizer :
    decodeTableWord 48 0x000100001080 = some (.tqSet 0x00010000#32) ∧
    decodeTableWord 16 0x0080 = some .tqGet ∧ decodeTableWord 16 0x0084 = some .tqResult := by decide

/-- The planner's inputs and commands: 0x1090/0x0090 to 0x109C/0x009C, 0x00A0, 0x10A4 with data 1 (MV.PLAN) and 2
(MV.CLRERR), 0x10D0. -/
theorem test_decode_planner_commands :
    decodeTableWord 48 0x00030D401090 = some (.mvSetdx 200000#32) ∧ decodeTableWord 16 0x0090 = some .mvGetdx ∧
    decodeTableWord 48 0xFFFE79601094 = some (.mvSetdy 0xFFFE7960#32) ∧ decodeTableWord 16 0x0094 = some .mvGetdy ∧
    decodeTableWord 48 0x000000051098 = some (.mvSetdz 5#32) ∧ decodeTableWord 16 0x0098 = some .mvGetdz ∧
    decodeTableWord 48 0x00002EE0109C = some (.mvSetfeed 12000#32) ∧ decodeTableWord 16 0x009C = some .mvGetfeed ∧
    decodeTableWord 16 0x00A0 = some .mvK ∧
    decodeTableWord 48 0x0000000110A4 = some (.mvCtrl true false) ∧
    decodeTableWord 48 0x0000000210A4 = some (.mvCtrl false true) ∧
    decodeTableWord 16 0x10D0 = some .mvNext := by decide

/-- The planner's results: 0x00A8 to 0x00CC. -/
theorem test_decode_planner_results :
    decodeTableWord 16 0x00A8 = some .mvStatus ∧ decodeTableWord 16 0x00AC = some .mvTicks ∧
    decodeTableWord 16 0x00B0 = some .mvTimer ∧ decodeTableWord 16 0x00B4 = some .mvNseg ∧
    decodeTableWord 16 0x00B8 = some .mvSegleft ∧ decodeTableWord 16 0x00BC = some .mvSegdx ∧
    decodeTableWord 16 0x00C0 = some .mvSegdy ∧ decodeTableWord 16 0x00C4 = some .mvSegdz ∧
    decodeTableWord 16 0x00C8 = some .mvSegindex ∧ decodeTableWord 16 0x00CC = some .mvMaster := by decide

/-- The first failing check names the cause (R261): size, alignment, map, direction. -/
theorem test_decode_names_the_cause :
    decode ⟨.read, 0x01D#12, 1, 0#32⟩ = .error .size ∧ decode ⟨.read, 0x01D#12, 4, 0#32⟩ = .error .align ∧
    decode ⟨.read, 0x01C#12, 4, 0#32⟩ = .error .unmapped ∧ decode ⟨.read, 0x044#12, 4, 0#32⟩ = .error .direction ∧
    decode ⟨.write, 0x400#12, 4, 0#32⟩ = .error .direction := by decide

/-! ## States for the tests -/

/-- The encoder after `ENC.BEGIN 1, 0x0A` (R120's example). -/
def openFrame : State :=
  { State.reset with
    enc := ⟨.opened, [(0, 0xD5#8), (2, 0x01#8), (3, 0x0A#8)], 2#8, 0xBA#8, false, false⟩ }

/-- An open frame with a body of `n` zero bytes, whose CRC is 0x00 (R104 (b)). -/
def zeroFrame (n : Nat) : State :=
  { State.reset with enc := ⟨.opened, [(0, 0xD5#8)], BitVec.ofNat 8 n, 0#8, false, false⟩ }

/-- A decoder in a phase, with a body and a running CRC. -/
def decoding (phase : DecPhase) (len count crc : Byte) (body : Memory) : State :=
  { State.reset with dec := ⟨phase, len, count, crc, body, false, 0#8, 0#8, 0#16⟩ }

/-- The version response of R150's example in Complete, with the reader at a cursor. -/
def versionBody (cursor : Byte) : State :=
  { decoding .complete 5#8 5#8 0x4B#8 [(0, 0x01#8), (1, 0x07#8)] with rd := ⟨cursor, false, false⟩ }

/-- The body `[01 34 12 78 56 34 12 AB]` of the examples of R181 to R183, with the reader at a cursor. -/
def longBody (cursor : Byte) : State :=
  { decoding .complete 8#8 8#8 0#8
      [(0, 0x01#8), (1, 0x34#8), (2, 0x12#8), (3, 0x78#8), (4, 0x56#8), (5, 0x34#8), (6, 0x12#8), (7, 0xAB#8)] with
    rd := ⟨cursor, false, false⟩ }

/-- The planner with inputs and no plan. -/
def inputs (x y z feed : Word) : State :=
  { State.reset with mv := { Planner.reset with delta := ⟨x, y, z⟩, feed := feed } }

/-- R202's example: `MV.SETDX 200000`, `MV.SETDY −100000`, `MV.SETDZ 5`, `MV.SETFEED 12000`. -/
def longMove : State := inputs 200000#32 0xFFFE7960#32 5#32 12000#32

/-- R202's example planned with K = 960000000. -/
def plannedMove : State := { longMove with mv := longMove.mv.plan 960000000 }

/-- The state an operation ends in. -/
def after (i : Instr) (s : State) : State :=
  match exec i s with
  | .next t => t
  | .fault _ => s
  | .refused _ => s

/-! ## One step of each operation -/

/-- R250's and R251's examples. -/
theorem test_identity_reads :
    (after .sysId State.reset).resp = .rdata 0x43504752#32 ∧
    (after .sysVersion State.reset).resp = .rdata 0x00010000#32 := by decide

/-- R253's example, OK_CODE = 1. -/
theorem test_param_word : paramWord 1#8 = 0x000401D5#32 := by decide

/-- R254's examples: a read of DEC_DATA, and MV.NEXT with no segment. -/
theorem test_error_records :
    performAccess ⟨.read, 0x044#12, 4, 0#32⟩ State.reset =
      .next { State.reset with glbErr := 0x00440004#32, resp := .busError .read .direction } ∧
    (after .mvNext State.reset).glbErr = 0x00D00015#32 ∧
    (after .sysErr { State.reset with glbErr := 0x00D00015#32 }).resp = .rdata 0x00D00015#32 :=
  ⟨rfl, rfl, rfl⟩

/-- R252: SOFT_RESET leaves the reset state, CLR_ERR clears the record and nothing else. -/
theorem test_system_control :
    after (.sysCtrl true false) openFrame = { State.reset with resp := .ok } ∧
    after (.sysCtrl false true) { openFrame with glbErr := 0x00440004#32 } = { openFrame with resp := .ok } := by decide

/-- R101's example, R102's example, R103. -/
theorem test_crc_operations :
    (after (.crcUpdate 0x01#8) State.reset).crcAcc = 0x5E#8 ∧
    (after (.crcCtrl true) { State.reset with crcAcc := 0xA1#8 }).crcAcc = 0x00#8 ∧
    (after .crcValue { State.reset with crcAcc := 0xA1#8 }).resp = .rdata 0x000000A1#32 := by decide

/-- R100's check value: `crc8("123456789") = 0xA1`. -/
theorem test_crc_check_value :
    crc8 [0x31#8, 0x32#8, 0x33#8, 0x34#8, 0x35#8, 0x36#8, 0x37#8, 0x38#8, 0x39#8] = 0xA1#8 := by decide +kernel

/-- R120's example, from a frame that BEGIN discards, and R127's example. -/
theorem test_begin :
    (after (.encBegin 0x01#8 0x0A#8) (zeroFrame 9)).enc = openFrame.enc ∧
    (after .encStatus openFrame).resp = .rdata 0x00BA0201#32 := by decide +kernel

/-- R121's example. -/
theorem test_add8 :
    (after (.encAdd8 0x05#8) openFrame).enc =
      ⟨.opened, [(0, 0xD5#8), (2, 0x01#8), (3, 0x0A#8), (4, 0x05#8)], 3#8, 0x73#8, false, false⟩ := by decide +kernel

/-- R122's example, from the CRC of R121's. -/
theorem test_add16 :
    (after (.encAdd16 0x1234#16) { State.reset with enc := ⟨.opened, [(0, 0xD5#8)], 3#8, 0x73#8, false, false⟩ }).enc =
      ⟨.opened, [(0, 0xD5#8), (5, 0x34#8), (6, 0x12#8)], 5#8, 0xD4#8, false, false⟩ := by decide +kernel

/-- R123's example: `EF BE AD DE` appended at length 5, from the CRC of R122's, gives the trailer 0xBB of R124's. -/
theorem test_add32 :
    (after (.encAdd32 0xDEADBEEF#32) { State.reset with enc := ⟨.opened, [(0, 0xD5#8)], 5#8, 0xD4#8, false, false⟩ }).enc =
      ⟨.opened, [(0, 0xD5#8), (7, 0xEF#8), (8, 0xBE#8), (9, 0xAD#8), (10, 0xDE#8)], 9#8, 0xBB#8, false, false⟩ := by
  decide +kernel

/-- R123: at `enc_len = 252` a four-byte append raises OVERFLOW, with no byte appended. -/
theorem test_add32_overflow :
    after (.encAdd32 0xDEADBEEF#32) (zeroFrame 252) =
      { zeroFrame 252 with
        enc := { (zeroFrame 252).enc with overflow := true }, glbErr := 0x002C0016#32,
        resp := .busError .write .overflow } := by decide

/-- R124: FINALIZE right after BEGIN gives `[D5 02 t c crc]`, and R128 reads its length. -/
theorem test_finalize :
    (after .encFinalize openFrame).enc =
      ⟨.done, [(0, 0xD5#8), (1, 0x02#8), (2, 0x01#8), (3, 0x0A#8), (4, 0xBA#8)], 2#8, 0xBA#8, false, false⟩ ∧
    (after .encFramelen (after .encFinalize openFrame)).resp = .rdata 5#32 := by decide

/-- R125: a window word of the frame above, and the word past it. -/
theorem test_frame_window :
    (after (.encFrame 0) (after .encFinalize openFrame)).resp = .rdata 0x0A0102D5#32 ∧
    (after (.encFrame 1) (after .encFinalize openFrame)).resp = .rdata 0x000000BA#32 := by decide

/-- R126's example: ENC_STATUS = 0x00BA020D, then both commands. -/
theorem test_encoder_control :
    encStatusWord { openFrame.enc with overflow := true, seqErr := true } = 0x00BA020D#32 ∧
    encStatusWord (after (.encCtrl true true)
      { openFrame with enc := { openFrame.enc with overflow := true, seqErr := true } }).enc = 0#32 := by decide

/-- R151: the byte after a sentinel is the length, even when it is 0xD5. -/
theorem test_push_length :
    (after (.decPush 0xD5#8) (decoding .awaitLength 0#8 0#8 0#8 [])).dec =
      (decoding .awaitPayload 0xD5#8 0#8 0#8 []).dec := by decide

/-- R153 and R154 on R150's and R158's frames: the trailer 0x4B completes, 0x4C gives DEC_ERRINFO = 0x00014B4C. -/
theorem test_push_trailer :
    after (.decPush 0x4B#8) (decoding .awaitCrc 5#8 5#8 0x4B#8 [(0, 0x01#8), (1, 0x07#8)]) =
      { versionBody 1#8 with resp := .ok } ∧
    decErrinfoWord (after (.decPush 0x4C#8) (decoding .awaitCrc 5#8 5#8 0x4B#8 [(0, 0x01#8), (1, 0x07#8)])).dec =
      0x00014B4C#32 := by decide

/-- R157's and R156's examples, after R150's. -/
theorem test_decoder_reads :
    (after .decStatus (versionBody 1#8)).resp = .rdata 0x4B050504#32 ∧
    (after (.decBody 0) (versionBody 1#8)).resp = .rdata 0x00000701#32 ∧
    (after (.decBody 0) (decoding .awaitPayload 5#8 2#8 0#8 [(0, 0x01#8)])).resp = .rdata 0#32 := by decide

/-- R158's and R155's examples. -/
theorem test_decoder_records :
    (after .decErrinfo { State.reset with dec := { Decoder.reset with rxCrc := 0x4C#8, calcCrc := 0x4B#8, mismatchCnt := 1#16 } }).resp
      = .rdata 0x00014B4C#32 ∧
    decStatusWord (decoding .awaitPayload 3#8 1#8 0x5E#8 [(0, 0x01#8)]).dec = 0x5E010302#32 ∧
    decStatusWord (after (.decCtrl true false) (decoding .awaitPayload 3#8 1#8 0x5E#8 [(0, 0x01#8)])).dec = 0#32 := by
  decide

/-- R180's examples, OK_CODE = 1: the codes 1 and 2. -/
theorem test_code_word : rdCodeWord 1#8 1#8 = 0x00000101#32 ∧ rdCodeWord 1#8 2#8 = 0x00000002#32 := by decide

/-- R181's example: cursor 7 gives 0xAB and cursor 8; at the end the read fails and the cursor stands. -/
theorem test_get8 :
    (after .rdGet8 (longBody 7#8)).resp = .rdata 0x000000AB#32 ∧ (after .rdGet8 (longBody 7#8)).rd.cursor = 8#8 ∧
    (after .rdGet8 (longBody 8#8)).rd = ⟨8#8, true, false⟩ ∧ (after .rdGet8 (longBody 8#8)).glbErr = 0x00680008#32 := by
  decide

/-- R182's example at cursor 1. -/
theorem test_get16 :
    (after .rdGet16 (versionBody 1#8)).resp = .rdata 0x00000007#32 ∧
    (after .rdGet16 (versionBody 1#8)).rd.cursor = 3#8 := by decide

/-- R183's example at cursor 3; outside Complete the read fails with NOT_READY. -/
theorem test_get32 :
    (after .rdGet32 (longBody 3#8)).resp = .rdata 0x12345678#32 ∧ (after .rdGet32 (longBody 3#8)).rd.cursor = 7#8 ∧
    (after .rdGet32 State.reset).rd = ⟨0#8, false, true⟩ ∧ (after .rdGet32 State.reset).glbErr = 0x00700007#32 := by
  decide

/-- R185's and R186's examples. -/
theorem test_reader_control_and_status :
    (after (.rdCtrl true false) (versionBody 5#8)).rd.cursor = 1#8 ∧
    (after .rdStatus (versionBody 1#8)).resp = .rdata 0x00010401#32 := by decide

/-- R241's and R243's examples. -/
theorem test_quantizer :
    (after (.tqSet 65536#32) State.reset).tqTicks = 65536#32 ∧
    (after .tqResult { State.reset with tqTicks := 65536#32 }).resp = .rdata 0x00012000#32 ∧
    (after .tqResult { State.reset with tqTicks := 65535#32 }).resp = .rdata 0x0000FFFF#32 ∧
    (after .tqResult { State.reset with tqTicks := 67107841#32 }).resp = .rdata 0x0104FFFF#32 ∧
    (after .tqGet { State.reset with tqTicks := 0xFFFFFFFF#32 }).resp = .rdata 0xFFFFFFFF#32 := by decide +kernel

/-- R202's example with K = 960000000: MV_MASTER, MV_TICKS, MV_TIMER, MV_NSEG, MV_SEG_LEFT, MV_STATUS. -/
theorem test_plan :
    plannedMove.mv.master = 200000#32 ∧ plannedMove.mv.ticks = 89442#32 ∧ plannedMove.mv.timer = 0x00012BAC#32 ∧
    plannedMove.mv.nseg = 4#32 ∧ plannedMove.mv.segLeft = 4#32 ∧ mvStatusWord plannedMove.mv = 0x00000001#32 := by
  decide +kernel

/-- R210: a zero move reads 3, a refused plan 4, whatever K is. -/
theorem test_plan_without_segments :
    mvStatusWord (after (.mvCtrl true false) (inputs 0#32 0#32 0#32 0#32)).mv = 3#32 ∧
    mvStatusWord (after (.mvCtrl true false) (inputs 1#32 0#32 0#32 0#32)).mv = 4#32 := by decide +kernel

/-- R201's saturated example: K = 4294967295, d = (1, 1, 1), F = 1. -/
theorem test_ticks_saturate : ticksExact 4294967295 3 1 1 = 7439101571 := by decide +kernel

/-- R204's first segment, with the half-up tie of R205. -/
theorem test_next :
    (after .mvNext plannedMove).mv.seg = ⟨65535#32, 0xFFFF8000#32, 2#32⟩ ∧
    (after .mvNext plannedMove).mv.segLeft = 3#32 ∧ (after .mvNext plannedMove).mv.segIndex = 1#32 ∧
    (after .mvNext plannedMove).mv.remM = 134465 := by decide +kernel

/-- R207's, R208's and R217's examples. -/
theorem test_planner_inputs :
    (after (.mvSetdy 0xFFFE7960#32) State.reset).mv.delta = ⟨0#32, 0xFFFE7960#32, 0#32⟩ ∧
    (after (.mvSetdx 1#32) State.reset).mv.delta.x = 1#32 ∧ (after (.mvSetdz 1#32) State.reset).mv.delta.z = 1#32 ∧
    (after (.mvSetfeed 7#32) State.reset).mv.feed = 7#32 ∧
    (after .mvGetdx longMove).resp = .rdata 200000#32 ∧ (after .mvGetdy longMove).resp = .rdata 0xFFFE7960#32 ∧
    (after .mvGetdz longMove).resp = .rdata 5#32 ∧ (after .mvGetfeed longMove).resp = .rdata 12000#32 := by decide

/-- R211 to R217: each result register is read at its own place. -/
theorem test_planner_results :
    (after .mvStatus plannedMove).resp = .rdata 1#32 ∧ (after .mvTicks plannedMove).resp = .rdata 89442#32 ∧
    (after .mvTimer plannedMove).resp = .rdata 0x00012BAC#32 ∧ (after .mvNseg plannedMove).resp = .rdata 4#32 ∧
    (after .mvSegleft plannedMove).resp = .rdata 4#32 ∧ (after .mvMaster plannedMove).resp = .rdata 200000#32 ∧
    (after .mvSegindex (after .mvNext plannedMove)).resp = .rdata 1#32 ∧
    (after .mvSegdx (after .mvNext plannedMove)).resp = .rdata 65535#32 ∧
    (after .mvSegdy (after .mvNext plannedMove)).resp = .rdata 0xFFFF8000#32 ∧
    (after .mvSegdz (after .mvNext plannedMove)).resp = .rdata 2#32 := by decide +kernel

/-- A step performs the access placed at the port, and a power-on gives the reset state. -/
theorem test_step :
    step (State.reset.withFetchWord 48 0x000000011014) = .next { State.reset with crcAcc := 0x5E#8, resp := .ok } ∧
    step { openFrame with pending := [.powerOn] } = .next State.reset := ⟨rfl, rfl⟩

/-! ## Concrete states that meet the invariant -/

/-- A decoder with one byte of a body of 255 zero bytes still to come. -/
def lastBodyByte : State := decoding .awaitPayload 0xFF#8 0xFE#8 0#8 []

/-- A machine at work in every unit: an open frame, a body all but received, a plan whose first segment was taken. -/
def midway : State :=
  { openFrame with
    dec := lastBodyByte.dec, mv := plannedMove.mv.advance, glbErr := 0x00440004#32, crcAcc := 0x5E#8,
    tqTicks := 65536#32 }

/-- Bytes that are all zero leave a zero CRC as it is. -/
theorem crc8_zero_slice {m : Memory} {a : Nat} (h : ∀ i, a ≤ i → m.read i = 0#8) : ∀ n, crc8 (m.slice a n) = 0#8
  | 0 => rfl
  | n + 1 => by
    rw [Memory.slice_succ, crc8_concat, crc8_zero_slice h n, h (a + n) (by omega)]
    decide

theorem zeroFrame_251_inv : (zeroFrame 251).enc.Inv := by
  refine ⟨by decide, by decide, ?_⟩
  show 2 ≤ 251 ∧ _
  have hz : ∀ i, 2 ≤ i → (zeroFrame 251).enc.buf.read i = 0#8 := fun i hi =>
    Memory.read_of_within (n := 1) (by omega) (by decide)
  exact ⟨by decide, by decide, by decide, (crc8_zero_slice hz _).symm, fun i hi => hz i (Nat.le_trans (by decide) hi)⟩

theorem openFrame_inv : openFrame.enc.Inv := by
  refine ⟨by decide, by decide, ?_⟩
  show 2 ≤ 2 ∧ _
  exact ⟨by decide, by decide, by decide, by decide +kernel,
    fun i hi => Memory.read_of_within (n := 4) hi (by decide)⟩

theorem lastBodyByte_inv : lastBodyByte.dec.Inv := by
  refine ⟨by decide, by decide, ?_, ?_⟩
  · show 254 < 255 ∧ _
    exact ⟨by decide, (crc8_zero_slice (fun _ _ => rfl) _).symm, fun _ _ => rfl⟩
  · exact ⟨rfl, rfl, rfl⟩

theorem plannedMove_planInv : plannedMove.mv.advance.PlanInv := by
  unfold Planner.PlanInv
  decide +kernel

theorem plannedMove_segmentInv : plannedMove.mv.advance.SegmentInv := by
  unfold Planner.SegmentInv SegmentInRange
  decide +kernel

theorem midway_errorRecordInv : ErrorRecordInv midway.glbErr := by
  unfold ErrorRecordInv
  decide

theorem midway_inv : midway.Inv :=
  ⟨midway_errorRecordInv, openFrame_inv, lastBodyByte_inv, fun h => absurd h (by decide), plannedMove_planInv,
    plannedMove_segmentInv⟩

/-! ## Witnesses: for each statement with hypotheses, values that meet them together -/

theorem witness_DecodeEncodeWellFormed : Instr.wf (.encFrame 255) = true ∧ Instr.wf (.encBegin 0xFF#8 0xD5#8) = true := by
  decide

theorem witness_DecodedAccessReencodes :
    decode ⟨.write, 0x020#12, 4, 0xFFFF0A01#32⟩ = .ok (.encBegin 0x01#8 0x0A#8) ∧
    decode ⟨.read, 0x7FC#12, 4, 0#32⟩ = .ok (.encFrame 255) := ⟨rfl, rfl⟩

theorem witness_OneRowPerLegalAccess :
    (0xFFC#12 : Offset).toNat % 4 = 0 ∧ offsetKind 0xFFC#12 = none ∧ offsetKind 0xBFC#12 = some .readOnly := by decide

/-- Each range of R65's list at both its ends, and the mapped neighbours. -/
theorem witness_UnmappedOffsetsRaise :
    (([0x01C, 0x050, 0x05C, 0x078, 0x07C, 0x088, 0x08C, 0x0D4, 0x0EC, 0x0F4, 0x3FC, 0xC00, 0xFFC] : List Nat).all fun n =>
      n % 4 == 0 && (match decode ⟨.read, BitVec.ofNat 12 n, 4, 0#32⟩ with
        | .error c => c == .unmapped
        | .ok _ => false)) = true ∧
    (([0x018, 0x020, 0x04C, 0x060, 0x074, 0x080, 0x084, 0x090, 0x0D0, 0x0F0, 0x400, 0xBFC] : List Nat).all fun n =>
      n % 4 == 0 && (offsetKind (BitVec.ofNat 12 n)).isSome) = true := by decide +kernel

theorem witness_SizeAlignDirectionRaise :
    (8 : Nat) ≠ 4 ∧ (0xFFF#12 : Offset).toNat % 4 ≠ 0 ∧
    (0x068#12 : Offset).toNat % 4 = 0 ∧ offsetKind 0x068#12 = some .readSide ∧
      AccessKind.readSide.allows .write = false := by decide

/-- The six ways a failing access can leave the flags. -/
theorem witness_FailedAccessChangesOnlyErrorState :
    performAccess ⟨.read, 0x044#12, 4, 0#32⟩ midway = .next (midway.raise .read 0x044#12 .direction) ∧
    performAccess ⟨.write, 0x030#12, 4, 0#32⟩ State.reset =
      .next ({ State.reset with enc := { Encoder.reset with seqErr := true } }.raise .write 0x030#12 .sequence) ∧
    performAccess ⟨.write, 0x024#12, 4, 0#32⟩ (zeroFrame 255) =
      .next ({ zeroFrame 255 with enc := { (zeroFrame 255).enc with overflow := true } }.raise .write 0x024#12 .overflow) ∧
    performAccess ⟨.read, 0x064#12, 4, 0#32⟩ State.reset =
      .next ({ State.reset with rd := ⟨0#8, false, true⟩ }.raise .read 0x064#12 .notReady) ∧
    performAccess ⟨.read, 0x068#12, 4, 0#32⟩ (longBody 8#8) =
      .next ({ longBody 8#8 with rd := ⟨8#8, true, false⟩ }.raise .read 0x068#12 .pastEnd) ∧
    performAccess ⟨.write, 0x0D0#12, 4, 0#32⟩ State.reset =
      .next ({ State.reset with mv := { Planner.reset with seqErr := true } }.raise .write 0x0D0#12 .sequence) :=
  ⟨rfl, rfl, rfl, rfl, rfl, rfl⟩

theorem witness_ReservedReadBitsAreZero :
    midway.Inv ∧ exec .mvTimer midway = .next (midway.answer midway.mv.timer) ∧
    exec .sysErr midway = .next (midway.answer 0x00440004#32) := ⟨midway_inv, rfl, rfl⟩

theorem witness_StepPerformsTheDecodedAccess :
    { midway with pending := [.access (.wr 0x024#12 5#32), .powerOn] }.pending = .access (.wr 0x024#12 5#32) :: [.powerOn] ∧
    decode (.wr 0x024#12 5#32) = .ok (.encAdd8 5#8) := ⟨rfl, rfl⟩

theorem witness_StepWithoutAnAccess :
    midway.pending = [] ∧ { midway with pending := [.powerOn, .powerOn] }.pending = .powerOn :: [.powerOn] := ⟨rfl, rfl⟩

theorem witness_PlacedWordIsPerformed : decodeTableWord 48 0x000000D51044 = some (.decPush 0xD5#8) := rfl

/-- A push that completes a frame, a plain operation of another unit, and a soft reset. -/
theorem witness_UnitsAreIsolated :
    exec (.decPush 0x4B#8) (decoding .awaitCrc 5#8 5#8 0x4B#8 []) =
      .next (after (.decPush 0x4B#8) (decoding .awaitCrc 5#8 5#8 0x4B#8 [])) ∧
    (decoding .awaitCrc 5#8 5#8 0x4B#8 []).dec.phase ≠ .complete ∧
    (after (.decPush 0x4B#8) (decoding .awaitCrc 5#8 5#8 0x4B#8 [])).dec.phase = .complete ∧
    exec (.tqSet 7#32) midway = .next (after (.tqSet 7#32) midway) ∧ unitOf (.tqSet 7#32) ≠ .encoder ∧
    exec (.sysCtrl true true) midway = .next (after (.sysCtrl true true) midway) :=
  ⟨rfl, by decide, rfl, rfl, by decide, rfl⟩

/-- A read that succeeds, and one that fails. -/
theorem witness_ReadsAreIdempotent :
    (encode .decStatus).dir = .read ∧ exec .decStatus midway = .next (after .decStatus midway) ∧
    (encode .rdCode).dir = .read ∧ exec .rdCode midway = .next (after .rdCode midway) := ⟨rfl, rfl, rfl, rfl⟩

/-- Every sticky flag set, a standing error record, and an operation that is no clearing command. -/
theorem witness_StickyFlagsStay :
    let s : State :=
      { midway with
        enc := { openFrame.enc with overflow := true, seqErr := true },
        dec := { Decoder.reset with crcErr := true, rxCrc := 0x4C#8, calcCrc := 0x4B#8, mismatchCnt := 0xFFFF#16 },
        rd := ⟨1#8, true, true⟩, mv := { Planner.reset with feedZero := true, seqErr := true } }
    exec (.encBegin 0x01#8 0x0A#8) s = .next (after (.encBegin 0x01#8 0x0A#8) s) ∧ s.enc.overflow = true ∧
    s.enc.seqErr = true ∧ s.dec.crcErr = true ∧ s.rd.notReady = true ∧ s.rd.pastEnd = true ∧ s.mv.feedZero = true ∧
    s.mv.seqErr = true ∧ s.glbErr ≠ 0#32 :=
  ⟨rfl, rfl, rfl, rfl, rfl, rfl, rfl, rfl, by decide⟩

theorem witness_StepKeepsTheInvariant :
    State.Inv { midway with pending := [.access (.wr 0x0D0#12 0#32)] } ∧
    step { midway with pending := [.access (.wr 0x0D0#12 0#32)] } = .next (after .mvNext midway) := ⟨midway_inv, rfl⟩

theorem witness_CanonicalBuffersAreEqual :
    Memory.wf [(0, 0xD5#8), (7, 0x01#8)] = true ∧
    ∀ a, Memory.read [(0, 0xD5#8), (7, 0x01#8)] a = Memory.read ((Memory.write [(0, 0xD5#8)] 7 0x01#8)) a :=
  ⟨by decide, fun _ => rfl⟩

theorem witness_CrcOfASequence : ∀ b ∈ [0x00#8, 0x00#8], b = 0x00#8 := by decide

theorem witness_CrcDetectsOneChangedByte : (0x00#8 : Byte) ≠ 0x80#8 := by decide

/-- The three clauses at their boundaries: no open frame; one byte too many at each width; the last append that fits. -/
theorem witness_EncoderAppends :
    State.reset.enc.state ≠ .opened ∧ (after .encFinalize openFrame).enc.state ≠ .opened ∧
    (zeroFrame 255).enc.state = .opened ∧ (zeroFrame 255).enc.len.toNat + 1 > 255 ∧
    (zeroFrame 254).enc.len.toNat + 2 > 255 ∧ (zeroFrame 252).enc.len.toNat + 4 > 255 ∧
    (zeroFrame 251).enc.state = .opened ∧ (zeroFrame 251).enc.len.toNat + 4 ≤ 255 ∧ (zeroFrame 251).enc.Inv :=
  ⟨by decide, by decide, rfl, by decide, by decide, by decide, rfl, by decide, zeroFrame_251_inv⟩

theorem witness_EncoderFinalize :
    (zeroFrame 251).enc.Inv ∧ (zeroFrame 251).enc.state = .opened ∧ State.reset.enc.state ≠ .opened :=
  ⟨zeroFrame_251_inv, rfl, by decide⟩

theorem witness_FrameWindowReads :
    (0x400#12 : Offset).toNat % 4 = 0 ∧ 0x400 ≤ (0x400#12 : Offset).toNat ∧ (0x7FC#12 : Offset).toNat % 4 = 0 ∧
    (0x7FC#12 : Offset).toNat ≤ 0x7FC := by decide

theorem witness_FrameBufferWriters : exec (.encCtrl true false) midway = .next (after (.encCtrl true false) midway) := rfl

/-- A payload of exactly 253 bytes, in all three widths. -/
theorem witness_BuiltFrameIsTheWireFrame :
    (payloadBytes (.u8 0xD5#8 :: List.replicate 126 (.u16 0x1234#16))).length ≤ 253 ∧
    (payloadBytes (.u8 0xD5#8 :: List.replicate 63 (.u32 0xDEADBEEF#32))).length ≤ 253 := by decide +kernel

/-- A state in each phase; the body byte at the last place of the longest body; a matching and a wrong trailer. -/
theorem witness_DecoderPush :
    State.reset.dec.phase = .awaitSentinel ∧ (versionBody 1#8).dec.phase = .complete ∧
    (decoding .awaitLength 0#8 0#8 0#8 []).dec.phase = .awaitLength ∧
    lastBodyByte.dec.phase = .awaitPayload ∧ lastBodyByte.dec.Inv ∧
    (decoding .awaitCrc 0#8 0#8 0#8 []).dec.phase = .awaitCrc ∧ 0x00#8 = (decoding .awaitCrc 0#8 0#8 0#8 []).dec.crc ∧
    0xD5#8 ≠ (decoding .awaitCrc 0#8 0#8 0#8 []).dec.crc :=
  ⟨rfl, rfl, rfl, rfl, lastBodyByte_inv, rfl, rfl, by decide⟩

theorem witness_DecoderIgnoresNoise :
    State.reset.dec.phase = .awaitSentinel ∧ ∀ b ∈ [0x00#8, 0xFF#8, 0xD4#8], b ≠ 0xD5#8 := by decide

theorem witness_BodyWindowReads :
    (0x800#12 : Offset).toNat % 4 = 0 ∧ 0x800 ≤ (0x800#12 : Offset).toNat ∧ (0xBFC#12 : Offset).toNat % 4 = 0 ∧
    (0xBFC#12 : Offset).toNat ≤ 0xBFC := by decide

/-- The empty and the longest body, from both phases, and a prefix one byte short. -/
theorem witness_PushedFrameCompletes :
    ([] : List Byte).length ≤ 255 ∧ (List.replicate 255 0xD5#8).length ≤ 255 ∧
    State.reset.dec.phase = .awaitSentinel ∧ (versionBody 1#8).dec.phase = .complete ∧
    1 ≤ 2 ∧ 2 < (wireFrame []).length := by decide +kernel

/-- A short and the longest body, a wrong trailer, from both phases. -/
theorem witness_MismatchThenResync :
    [0x01#8].length ≤ 255 ∧ (List.replicate 255 0xD5#8).length ≤ 255 ∧ 0xD5#8 ≠ crc8 [0x01#8] ∧
    State.reset.dec.phase = .awaitSentinel ∧ (versionBody 1#8).dec.phase = .complete := by decide +kernel

/-- The longest payload, from both phases. -/
theorem witness_BuiltFrameReadsBack :
    (payloadBytes (.u8 0xD5#8 :: List.replicate 63 (.u32 0xDEADBEEF#32))).length ≤ 253 ∧
    State.reset.dec.phase = .awaitSentinel ∧ (versionBody 1#8).dec.phase = .complete := by decide +kernel

/-- The three clauses at their boundaries: no body; one byte past the end, and exactly at the end, at each width. -/
theorem witness_ReaderGets :
    State.reset.dec.phase ≠ .complete ∧ (∀ c, (longBody c).dec.phase = .complete) ∧
    (longBody 8#8).rd.cursor.toNat + 1 > (longBody 8#8).dec.len.toNat ∧
    (longBody 7#8).rd.cursor.toNat + 1 ≤ (longBody 7#8).dec.len.toNat ∧
    (longBody 7#8).rd.cursor.toNat + 2 > (longBody 7#8).dec.len.toNat ∧
    (longBody 6#8).rd.cursor.toNat + 2 ≤ (longBody 6#8).dec.len.toNat ∧
    (longBody 5#8).rd.cursor.toNat + 4 > (longBody 5#8).dec.len.toNat ∧
    (longBody 4#8).rd.cursor.toNat + 4 ≤ (longBody 4#8).dec.len.toNat :=
  ⟨by decide, fun _ => rfl, by decide, by decide, by decide, by decide, by decide, by decide⟩

/-- A body of one byte, an empty body, and no body. -/
theorem witness_ReaderCode :
    (decoding .complete 1#8 1#8 0#8 []).dec.phase = .complete ∧ (decoding .complete 1#8 1#8 0#8 []).dec.len ≠ 0#8 ∧
    (decoding .complete 0#8 0#8 0#8 []).dec.len = 0#8 ∧ State.reset.dec.phase ≠ .complete := by decide

/-- The last tick count that does not saturate, the first that does, and two of one band. -/
theorem witness_QuantizeChoosesTheBand :
    (quantize 67107840).sat = false ∧ (quantize 67107841).sat = true ∧ 65535 ≤ 65535 ∧
    524281 ≤ 4194240 ∧ (quantize 524281).band = (quantize 4194240).band := by decide +kernel

theorem witness_IsqrtIsTheFloorRoot : 2 * 2 ≤ 8 := by decide

theorem witness_TicksAreTheExactFloor : 0 < 200000 ∧ 0 < 12000 := by decide

/-- A zero move, a refused plan, and the longest move. -/
theorem witness_PlanCommand :
    masterSteps (inputs 0#32 0#32 0#32 0#32).mv.magnitude = 0 ∧
    masterSteps (inputs 1#32 0#32 0#32 0#32).mv.magnitude ≠ 0 ∧ (inputs 1#32 0#32 0#32 0#32).mv.feed.toNat = 0 ∧
    masterSteps (inputs 0x80000000#32 0#32 0#32 1#32).mv.magnitude = 2 ^ 31 ∧
    (inputs 0x80000000#32 0#32 0#32 1#32).mv.feed.toNat ≠ 0 := by decide +kernel

theorem witness_NextSegment : plannedMove.mv.segLeft ≠ 0#32 ∧ State.reset.mv.segLeft = 0#32 := by decide +kernel

theorem witness_ShareRoundsHalfUp : 0 < 200000 := by decide

theorem witness_SegmentsAreLossless :
    masterSteps plannedMove.mv.rem ≤ plannedMove.mv.remM ∧
    exec .mvNext plannedMove = .next (after .mvNext plannedMove) ∧
    masterSteps longMove.mv.magnitude ≠ 0 ∧ longMove.mv.feed ≠ 0#32 ∧
    masterSteps (inputs 0x80000000#32 65535#32 0#32 1#32).mv.magnitude ≠ 0 :=
  ⟨by decide +kernel, by rfl, by decide +kernel, by decide, by decide +kernel⟩

end Sys2Proof.Tests
end

section
/-!
PROOFS. The integer square root (00_scope.md R9): the digit-by-digit `isqrt` is Mathlib's `Nat.sqrt`.
-/

namespace Sys2Proof.Machine

/-- One base-4 digit of `n` fixes one binary digit of its root: the root of `n` is twice the root of `n / 4`, or one
more, and the model's comparison tells which. -/
theorem sqrt_eq_of_sqrt_div_four (n : Nat) :
    Nat.sqrt n =
      if (2 * Nat.sqrt (n / 4) + 1) * (2 * Nat.sqrt (n / 4) + 1) ≤ n
      then 2 * Nat.sqrt (n / 4) + 1 else 2 * Nat.sqrt (n / 4) := by
  have lower : Nat.sqrt (n / 4) * Nat.sqrt (n / 4) ≤ n / 4 := Nat.sqrt_le _
  have upper : n / 4 < (Nat.sqrt (n / 4) + 1) * (Nat.sqrt (n / 4) + 1) := Nat.lt_succ_sqrt _
  generalize Nat.sqrt (n / 4) = q at lower upper ⊢
  have square_le : 2 * q * (2 * q) ≤ n := by
    rw [show 2 * q * (2 * q) = 4 * (q * q) by ring]; omega
  have lt_square : n < (2 * q + 2) * (2 * q + 2) := by
    rw [show (2 * q + 2) * (2 * q + 2) = 4 * ((q + 1) * (q + 1)) by ring]; omega
  split
  case isTrue digitOne => exact (Nat.eq_sqrt.2 ⟨digitOne, lt_square⟩).symm
  case isFalse digitZero => exact (Nat.eq_sqrt.2 ⟨square_le, not_le.1 digitZero⟩).symm

/-- Fuel for every base-4 digit of `n` is enough. -/
theorem isqrtFuel_eq_sqrt (fuel n : Nat) (enough : n < 4 ^ fuel) : isqrtFuel fuel n = Nat.sqrt n := by
  induction fuel generalizing n with
  | zero =>
    obtain rfl : n = 0 := by simpa using enough
    simp [isqrtFuel]
  | succ fuel ih =>
    have enough_div : n / 4 < 4 ^ fuel := Nat.div_lt_of_lt_mul (by rwa [Nat.pow_succ'] at enough)
    rw [isqrtFuel, ih _ enough_div]
    exact (sqrt_eq_of_sqrt_div_four n).symm

/-- `isqrt` gives `isqrtFuel` a digit per bit, twice what it needs. -/
theorem isqrt_eq_sqrt (n : Nat) : isqrt n = Nat.sqrt n := by
  have enough : n < 4 ^ (Nat.log2 n + 1) :=
    calc n < 2 ^ (Nat.log2 n + 1) := Nat.lt_log2_self
      _ ≤ 4 ^ (Nat.log2 n + 1) := Nat.pow_le_pow_left (by decide) _
  exact isqrtFuel_eq_sqrt _ n enough

/-- Settles O53: `isqrt` is `Nat.sqrt`, whose square is at most `n` and which bounds every such root. -/
theorem isqrtIsTheFloorRoot : Obligations.IsqrtIsTheFloorRoot := by
  intro n
  rw [isqrt_eq_sqrt]
  exact ⟨Nat.sqrt_le n, fun _ square_le => Nat.le_sqrt.2 square_le⟩

end Sys2Proof.Machine
end

section
/-!
PROOFS. Canonical buffers (log entry 5): the list is fixed by the bytes it reads.
-/

namespace Sys2Proof.Machine

/-- A canonical buffer that lists anything does not read 0x00 everywhere: its first entry is not 0x00. -/
theorem Memory.eq_nil_of_read_zero {m : Memory} (hwf : m.wf = true) (hread : ∀ a, m.read a = 0#8) : m = [] := by
  match m with
  | [] => rfl
  | (k, v) :: rest =>
    obtain ⟨hv, -, -⟩ := (wf_cons k v rest).1 hwf
    have hk := hread k
    rw [read_cons, if_pos rfl] at hk
    exact absurd hk hv

/-- The first index of a canonical buffer is the least that reads other than 0x00, so no buffer with the same bytes
starts above it. -/
theorem Memory.head_le_of_read_eq {k k' : Nat} {v v' : Byte} {rest rest' : Memory}
    (hwf : Memory.wf ((k, v) :: rest) = true) (hwf' : Memory.wf ((k', v') :: rest') = true)
    (hread : Memory.read ((k, v) :: rest) k = Memory.read ((k', v') :: rest') k) : k' ≤ k := by
  obtain ⟨hv, -, -⟩ := (wf_cons k v rest).1 hwf
  by_contra hlt
  have below : Memory.above k ((k', v') :: rest') = true :=
    (above_cons k k' v' rest').2 ⟨by omega, above_mono (by omega) (above_of_wf_cons hwf')⟩
  rw [read_of_above le_rfl below, read_cons, if_pos rfl] at hread
  exact hv hread

/-- Behind a common first index, canonical buffers with the same bytes have the same bytes. -/
theorem Memory.read_tail_eq {k : Nat} {v v' : Byte} {rest rest' : Memory}
    (hwf : Memory.wf ((k, v) :: rest) = true) (hwf' : Memory.wf ((k, v') :: rest') = true)
    (hread : ∀ a, Memory.read ((k, v) :: rest) a = Memory.read ((k, v') :: rest') a) (a : Nat) :
    rest.read a = rest'.read a := by
  by_cases ha : a ≤ k
  · rw [read_of_above ha (above_of_wf_cons hwf), read_of_above ha (above_of_wf_cons hwf')]
  · have := hread a
    rwa [read_cons, read_cons, if_neg (by omega), if_neg (by omega)] at this

/-- Settles O21, by induction on both lists: same first index, same first byte, same rest. -/
theorem canonicalBuffersAreEqual : Obligations.CanonicalBuffersAreEqual := by
  intro m
  induction m with
  | nil => exact fun m' _ hwf' hread => (Memory.eq_nil_of_read_zero hwf' fun a => (hread a).symm).symm
  | cons cell rest ih =>
    obtain ⟨k, v⟩ := cell
    intro m' hwf hwf' hread
    match m' with
    | [] => exact Memory.eq_nil_of_read_zero hwf hread
    | (k', v') :: rest' =>
      obtain rfl : k = k' := Nat.le_antisymm (Memory.head_le_of_read_eq hwf' hwf (hread k').symm)
        (Memory.head_le_of_read_eq hwf hwf' (hread k))
      obtain rfl : v = v' := by
        simpa only [Memory.read_cons, if_pos] using hread k
      obtain ⟨-, -, hrest⟩ := (Memory.wf_cons k v rest).1 hwf
      obtain ⟨-, -, hrest'⟩ := (Memory.wf_cons k v rest').1 hwf'
      rw [ih rest' hrest hrest' (Memory.read_tail_eq hwf hwf' hread)]

end Sys2Proof.Machine
end

section
/-!
PROOFS. Which access words the opcode table takes, as numbers, and from them the offsets that a 4-byte read and a 4-byte
write reach (10_state.md R20, 20_memory.md R66).
-/

namespace Sys2Proof

/-- The access words of the rows with mask `0x1FFF`, in the table's order. -/
def exactWords : List Nat :=
  (opTable.filter (fun r => r.mask == 0x1FFF#13)).map (fun r => r.pattern.toNat)

/-- A row with mask `0x1FFF` takes its own access word only. -/
theorem accepts_of_exactMask {r : Row} (hmask : r.mask = 0x1FFF#13) (aw : AccessWord) :
    r.accepts aw = true ↔ r.pattern.toNat = aw.toNat := by
  rw [Row.accepts, hmask, show aw &&& 0x1FFF#13 = aw from BitVec.and_allOnes, beq_iff_eq, BitVec.toNat_inj, eq_comm]

/-- The mask `0x1C00` of a window row keeps the three highest bits of the access word. -/
theorem and_windowMask (aw : AccessWord) : aw &&& 0x1C00#13 = aw >>> 10 <<< 10 := by
  refine BitVec.eq_of_getLsbD_eq fun i hi => ?_
  interval_cases i <;> simp

/-- A window row takes the 1024 access words that share its three highest bits. -/
theorem accepts_of_windowMask {r : Row} (hmask : r.mask = 0x1C00#13) (aw : AccessWord) :
    r.accepts aw = true ↔ 1024 * (aw.toNat / 1024) = r.pattern.toNat := by
  have htop : (aw >>> 10 <<< 10).toNat = 1024 * (aw.toNat / 1024) := by
    rw [BitVec.toNat_shiftLeft, BitVec.toNat_ushiftRight, Nat.shiftRight_eq_div_pow, Nat.shiftLeft_eq]
    omega
  rw [Row.accepts, hmask, and_windowMask, beq_iff_eq, ← BitVec.toNat_inj, htop]

/-- Some row takes an access word exactly when it is the word of a single register's row, or a read in a window. -/
theorem exists_row_accepts_iff (aw : AccessWord) :
    (∃ r ∈ opTable, r.accepts aw = true) ↔ aw.toNat ∈ exactWords ∨ (0x400 ≤ aw.toNat ∧ aw.toNat ≤ 0xBFF) := by
  have masks : ∀ r ∈ opTable, r.mask = 0x1FFF#13 ∨
      r.mask = 0x1C00#13 ∧ (r.pattern.toNat = 0x400 ∨ r.pattern.toNat = 0x800) := by decide
  have encWindow : ∃ r ∈ opTable, r.mask = 0x1C00#13 ∧ r.pattern.toNat = 0x400 := by decide
  have decWindow : ∃ r ∈ opTable, r.mask = 0x1C00#13 ∧ r.pattern.toNat = 0x800 := by decide
  constructor
  · rintro ⟨r, hr, hacc⟩
    obtain hmask | ⟨hmask, hpat⟩ := masks r hr
    · rw [accepts_of_exactMask hmask] at hacc
      exact .inl (List.mem_map.2 ⟨r, List.mem_filter.2 ⟨hr, beq_iff_eq.2 hmask⟩, hacc⟩)
    · rw [accepts_of_windowMask hmask] at hacc
      exact .inr (by omega)
  · rintro (hword | hwindow)
    · obtain ⟨r, hr, hpat⟩ := List.mem_map.1 hword
      obtain ⟨hr, hmask⟩ := List.mem_filter.1 hr
      exact ⟨r, hr, (accepts_of_exactMask (beq_iff_eq.1 hmask) aw).2 hpat⟩
    · by_cases hlow : aw.toNat < 0x800
      · obtain ⟨r, hr, hmask, hpat⟩ := encWindow
        exact ⟨r, hr, (accepts_of_windowMask hmask aw).2 (by omega)⟩
      · obtain ⟨r, hr, hmask, hpat⟩ := decWindow
        exact ⟨r, hr, (accepts_of_windowMask hmask aw).2 (by omega)⟩

/-- An access decodes exactly when it is an aligned 4-byte one that some row takes. -/
theorem exists_decode_ok_iff (a : Access) :
    (∃ i, decode a = .ok i) ↔ a.size = 4 ∧ a.off.toNat % 4 = 0 ∧ ∃ r ∈ opTable, r.accepts a.word = true := by
  rw [← List.find?_isSome]
  unfold decode
  by_cases hsize : a.size = 4
  · by_cases halign : a.off.toNat % 4 = 0
    · rw [if_neg (not_not.2 hsize), if_neg (not_not.2 halign)]
      cases hrow : opTable.find? (fun r => r.accepts a.word) with
      | some r => simp [hsize, halign]
      | none => split_ifs <;> simp
    · simp [hsize, halign]
  · simp [hsize]

theorem word_toNat_of_read (off : Offset) (size : Nat) (w : Word) :
    (Access.word ⟨.read, off, size, w⟩).toNat = off.toNat := by
  rw [Access.word, Machine.toNat_join]
  simp

theorem word_toNat_of_write (off : Offset) (size : Nat) (w : Word) :
    (Access.word ⟨.write, off, size, w⟩).toNat = 4096 + off.toNat := Machine.toNat_join 1#1 off

/-- The single registers that a read reaches, by offset: the RO, RO* and RW registers of R20's map. -/
def readableOffsets : List Nat :=
  [0x000, 0x004, 0x00C, 0x018, 0x034, 0x038, 0x048, 0x04C, 0x064, 0x068, 0x06C, 0x070, 0x074] ++
  ([0x080, 0x084, 0x090, 0x094, 0x098, 0x09C, 0x0A0, 0x0A8, 0x0AC, 0x0B0, 0x0B4, 0x0B8, 0x0BC] ++
   [0x0C0, 0x0C4, 0x0C8, 0x0CC, 0x0F0])

/-- The registers that a write reaches, by offset: the WO and RW registers of R20's map. -/
def writableOffsets : List Nat :=
  [0x008, 0x010, 0x014, 0x020, 0x024, 0x028, 0x02C, 0x030, 0x03C, 0x040, 0x044, 0x060] ++
  [0x080, 0x090, 0x094, 0x098, 0x09C, 0x0A4, 0x0D0]

/-- The table's exact access words are the reads and the writes of the two lists, and no other. -/
theorem exactWords_perm : exactWords.Perm (readableOffsets ++ writableOffsets.map (4096 + ·)) := by decide

theorem mem_exactWords_of_read {n : Nat} (hn : n < 4096) : n ∈ exactWords ↔ n ∈ readableOffsets := by
  rw [exactWords_perm.mem_iff, List.mem_append, List.mem_map]
  exact or_iff_left (fun ⟨k, _, hk⟩ => by omega)

theorem mem_exactWords_of_write (n : Nat) : 4096 + n ∈ exactWords ↔ n ∈ writableOffsets := by
  have small : ∀ k ∈ readableOffsets, k < 4096 := by decide
  rw [exactWords_perm.mem_iff, List.mem_append, List.mem_map]
  simp only [Nat.add_left_cancel_iff, exists_eq_right]
  exact or_iff_right (fun h => absurd (small _ h) (by omega))

/-- Settles O4: the access word of a read is its offset, that of a write is 4096 above it. -/
theorem legalOffsetsAreTheMaps : Obligations.LegalOffsetsAreTheMaps := by
  intro off w
  have hoff : off.toNat < 4096 := off.isLt
  have aligned : ∀ n ∈ writableOffsets, n % 4 = 0 := by decide
  rw [exists_decode_ok_iff, exists_decode_ok_iff, exists_row_accepts_iff, exists_row_accepts_iff, word_toNat_of_read,
    word_toNat_of_write, mem_exactWords_of_read hoff, mem_exactWords_of_write]
  constructor
  · rw [readableOffsets, List.mem_append, List.mem_append, or_assoc, or_assoc]
    exact and_iff_right rfl
  · rw [← List.mem_append]
    constructor
    · rintro ⟨-, -, hmem | hwindow⟩
      · exact hmem
      · omega
    · exact fun hmem => ⟨rfl, aligned _ hmem, .inl hmem⟩

end Sys2Proof
end

section
/-!
PROOFS. Every operation keeps the invariant of its unit: the encoder's (10_state.md R29), the decoder's (R39), the
planner's (R55 to R59, 44_segmenter.md R206).
-/

namespace Sys2Proof.Machine

/-! ## The error record -/

theorem errorRecordInv_zero : ErrorRecordInv 0#32 := by
  unfold ErrorRecordInv
  decide

/-- Every record that `raise` writes is legal: its cause is one of the eight, and none of them is 0. -/
theorem errorRecordInv_errorRecord (dir : Dir) (off : Offset) (cause : Cause) :
    ErrorRecordInv (errorRecord dir off cause) := by
  have code : (causeCode cause).toNat ≤ 8 ∧ causeCode cause ≠ 0#4 := by cases cause <;> decide
  refine ⟨errorRecord_low_zero dir off cause, errorRecord_high_zero dir off cause, ?_, ?_⟩ <;>
    rw [errorRecord_cause]
  · exact code.1
  · exact fun h => absurd h code.2

/-! ## The checksum of a body that grows -/

/-- A buffer that differs from another in the byte behind a slice: the longer slice's checksum is one update more. -/
theorem crc8_slice_concat {m m' : Memory} {a n : Nat} {b : Byte}
    (hread : ∀ i, m'.read i = if i = a + n then b else m.read i) :
    crc8 (m'.slice a (n + 1)) = crc8Update (crc8 (m.slice a n)) b := by
  have hslice : m'.slice a n = m.slice a n :=
    Memory.slice_congr a n fun i _ hi => by rw [hread, if_neg (by omega)]
  rw [Memory.slice_succ, crc8_concat, hslice, hread, if_pos rfl]

/-! ## The encoder -/

theorem Encoder.reset_inv : Encoder.reset.Inv := ⟨rfl, rfl, rfl, rfl, fun _ => rfl⟩

theorem Encoder.abort_inv (e : Encoder) : e.abort.Inv := ⟨rfl, rfl, rfl, rfl, fun _ => rfl⟩

theorem Encoder.begin_inv (e : Encoder) (target command : Byte) : (e.begin target command).Inv := by
  refine ⟨e.begin_buf_wf target command, e.begin_buf_within target command, le_rfl, ?_, ?_, ?_, fun i hi => ?_⟩
  · exact e.begin_buf_read target command 0
  · exact e.begin_buf_read target command 1
  · show _ = crc8 [(e.begin target command).buf.read 2, (e.begin target command).buf.read 3]
    rw [begin_buf_read, begin_buf_read]
    rfl
  · have hi : 4 ≤ i := hi
    rw [begin_buf_read, if_neg (by omega), if_neg (by omega), if_neg (by omega)]

/-- A byte that fits is counted with no wrap. -/
theorem Encoder.push_len_toNat {e : Encoder} (v : Byte) (hfit : e.len.toNat + 1 ≤ Config.maxLen) :
    (e.push v).len.toNat = e.len.toNat + 1 := by
  rw [Config.maxLen] at hfit
  rw [push_len]
  bv_omega

/-- One more byte of an open frame that is not full. -/
theorem Encoder.push_inv {e : Encoder} (v : Byte) (h : e.Inv) (hopen : e.state = .opened)
    (hfit : e.len.toNat + 1 ≤ Config.maxLen) : (e.push v).Inv := by
  obtain ⟨hwf, hin, hframe⟩ := h
  simp only [hopen] at hframe
  obtain ⟨hlen, hsentinel, hlength, hcrc, hzero⟩ := hframe
  have hlen' := push_len_toNat v hfit
  have hsize : 2 + e.len.toNat < Config.maxFrame := by rw [Config.maxLen] at hfit; rw [Config.maxFrame]; omega
  obtain ⟨hwf', hin', hstore⟩ := Memory.store_spec Config.maxFrame (2 + e.len.toNat) v hwf hin
  have hread : ∀ i, (e.push v).buf.read i = if i = 2 + e.len.toNat then v else e.buf.read i := by
    simpa only [push_buf, hsize, and_true] using hstore
  refine ⟨hwf', hin', ?_⟩
  simp only [push_state, hopen]
  refine ⟨by omega, ?_, ?_, ?_, fun i hi => ?_⟩
  · rw [hread, if_neg (by omega), hsentinel]
  · rw [hread, if_neg (by omega), hlength]
  · rw [hlen', crc8_slice_concat hread, push_crc, hcrc]
  · rw [hread, if_neg (by omega), hzero i (by omega)]

theorem Encoder.pushAll_inv (bytes : List Byte) : ∀ {e : Encoder}, e.Inv → e.state = .opened →
    e.len.toNat + bytes.length ≤ Config.maxLen → (e.pushAll bytes).Inv := by
  induction bytes with
  | nil => exact fun h _ _ => h
  | cons v bytes ih =>
    intro e h hopen hfit
    rw [List.length_cons] at hfit
    have hlen := push_len_toNat (e := e) v (by omega)
    exact ih (push_inv v h hopen (by omega)) hopen (by omega)

theorem Encoder.finalize_inv {e : Encoder} (h : e.Inv) (hopen : e.state = .opened) : e.finalize.Inv := by
  obtain ⟨hwf, hin, hframe⟩ := h
  simp only [hopen] at hframe
  obtain ⟨hlen, hsentinel, -, hcrc, hzero⟩ := hframe
  obtain ⟨hwf', hin', hread⟩ := finalize_spec hwf hin
  have hbody : e.finalize.buf.slice 2 e.len.toNat = e.buf.slice 2 e.len.toNat :=
    Memory.slice_congr 2 _ fun i _ hi => by rw [hread, if_neg (by omega), if_neg (by omega)]
  refine ⟨hwf', hin', hlen, ?_, ?_, ?_, ?_, fun i hi => ?_⟩
  · rw [hread, if_neg (by omega), if_neg (by omega), hsentinel]
  · rw [hread, if_neg (by omega), if_pos rfl, finalize_len]
  · rw [hread, finalize_len, if_pos rfl, finalize_crc]
  · rw [finalize_crc, finalize_len, hbody, hcrc]
  · rw [finalize_len] at hi
    rw [hread, if_neg (by omega), if_neg (by omega), hzero i (by omega)]

/-! ## The decoder -/

theorem Decoder.reset_inv : Decoder.reset.Inv := ⟨rfl, rfl, ⟨rfl, rfl, rfl, fun _ => rfl⟩, rfl, rfl, rfl⟩

/-- A restart leaves an empty frame, whatever stood before; the mismatch record stands. -/
theorem Decoder.restart_inv {d : Decoder} (h : d.RecordInv) : d.restart.Inv :=
  ⟨rfl, rfl, ⟨rfl, rfl, rfl, fun _ => rfl⟩, h⟩

theorem Decoder.clearErrors_inv {d : Decoder} (h : d.Inv) : d.clearErrors.Inv := by
  obtain ⟨hwf, hin, hframe, -⟩ := h
  exact ⟨hwf, hin, hframe, rfl, rfl, rfl⟩

theorem Decoder.stepSentinel_inv {d : Decoder} (b : Byte) (h : d.Inv) (hphase : d.phase = .awaitSentinel) :
    (d.stepSentinel b).Inv := by
  obtain ⟨hwf, hin, hframe, hrecord⟩ := h
  unfold stepSentinel
  split
  · rw [FrameInv, hphase] at hframe
    exact ⟨hwf, hin, hframe, hrecord⟩
  · exact ⟨hwf, hin, hframe, hrecord⟩

theorem Decoder.stepLength_inv {d : Decoder} (b : Byte) (h : d.RecordInv) : (d.stepLength b).Inv := by
  refine ⟨rfl, rfl, ?_, h⟩
  by_cases hb : b = 0#8
  · subst hb
    exact ⟨rfl, rfl, fun _ _ => rfl⟩
  · have hpos : 0 < b.toNat := Nat.pos_of_ne_zero fun h0 => hb (BitVec.eq_of_toNat_eq h0)
    rw [FrameInv, stepLength]
    simp only [if_neg hb]
    exact ⟨hpos, rfl, fun _ _ => rfl⟩

theorem Decoder.stepPayload_inv {d : Decoder} (b : Byte) (h : d.Inv) (hphase : d.phase = .awaitPayload) :
    (d.stepPayload b).Inv := by
  obtain ⟨hwf, hin, hframe, hrecord⟩ := h
  rw [FrameInv, hphase] at hframe
  obtain ⟨hlt, hcrc, hzero⟩ := hframe
  obtain ⟨hwf', hin', hcount, hphase', hread⟩ := stepPayload_spec b hwf hin hlt
  have hlen : (d.stepPayload b).len = d.len := rfl
  have hcrc' : (d.stepPayload b).crc = crc8 ((d.stepPayload b).body.slice 0 (d.count.toNat + 1)) := by
    rw [crc8_slice_concat (by simpa only [Nat.zero_add] using hread), ← hcrc]
    rfl
  have hzero' : ∀ i, d.count.toNat + 1 ≤ i → (d.stepPayload b).body.read i = 0#8 := fun i hi => by
    rw [hread, if_neg (by omega), hzero i (by omega)]
  refine ⟨hwf', hin', ?_, hrecord⟩
  rw [FrameInv, hphase', hlen]
  by_cases hfull : d.count.toNat + 1 = d.len.toNat
  · simp only [if_pos hfull]
    rw [← hfull]
    exact ⟨BitVec.eq_of_toNat_eq (hcount.trans hfull), hcrc', hzero'⟩
  · simp only [if_neg hfull]
    rw [hcount]
    exact ⟨by omega, hcrc', hzero'⟩

/-- A trailer other than the computed CRC is recorded with it, so the two bytes of the record differ. -/
theorem Decoder.mismatch_inv {d : Decoder} {b : Byte} (hb : b ≠ d.crc) : (d.mismatch b).Inv := by
  refine ⟨rfl, rfl, ⟨rfl, rfl, rfl, fun _ => rfl⟩, ?_, hb⟩
  show (if d.mismatchCnt = 0xFFFF#16 then d.mismatchCnt else d.mismatchCnt + 1) ≠ 0#16
  split <;> bv_omega

theorem Decoder.complete_inv {d : Decoder} (h : d.Inv) (hphase : d.phase = .awaitCrc) :
    ({ d with phase := .complete } : Decoder).Inv := by
  obtain ⟨hwf, hin, hframe, hrecord⟩ := h
  rw [FrameInv, hphase] at hframe
  exact ⟨hwf, hin, hframe, hrecord⟩

/-- The decoder after a push, phase by phase (42_decoder.md R150). -/
theorem decPushByte_dec_inv (b : Byte) {s : State} (h : s.dec.Inv) : (decPushByte b s).dec.Inv := by
  have ⟨_, _, _, hrecord⟩ := h
  cases hphase : s.dec.phase with
  | awaitSentinel =>
    rw [decPushByte_of_awaitSentinel b hphase]
    exact Decoder.stepSentinel_inv b h hphase
  | awaitLength =>
    rw [decPushByte_of_awaitLength b hphase]
    exact Decoder.stepLength_inv b hrecord
  | awaitPayload =>
    rw [decPushByte_of_awaitPayload b hphase]
    exact Decoder.stepPayload_inv b h hphase
  | awaitCrc =>
    by_cases hb : b = s.dec.crc
    · rw [decPushByte_of_match hphase hb]
      exact Decoder.complete_inv h hphase
    · rw [decPushByte_of_mismatch hphase hb]
      exact Decoder.mismatch_inv hb
  | complete =>
    rw [decPushByte_of_complete b hphase]
    exact Decoder.stepSentinel_inv b (Decoder.restart_inv hrecord) rfl

/-! ## The planner -/

/-- No plan, or the plan of a zero move: every result is 0, whatever the inputs and sticky flags. -/
theorem Planner.clearPlan_inv (p : Planner) (zeroMove feedZero : Bool) :
    ({ p.clearPlan with planned := zeroMove, zeroMove := zeroMove, feedZero := feedZero } : Planner).Inv := by
  unfold Planner.Inv Planner.PlanInv Planner.SegmentInv SegmentInRange
  simp only [clearPlan]
  cases zeroMove <;> decide

theorem Planner.reset_inv : Planner.reset.Inv := Planner.reset.clearPlan_inv false false

/-- A plan with segments, none of them produced (R202). -/
theorem Planner.plan_inv_of_move (k : Nat) {p : Planner} (hmove : masterSteps p.magnitude ≠ 0)
    (hfeed : p.feed.toNat ≠ 0) : (p.plan k).Inv := by
  rw [plan_of_move k hmove hfeed]
  have hmaster := masterSteps_magnitude_le p
  have hcount := segCount_lt hmaster
  dsimp only
  generalize ticksExact _ _ _ _ = ticks
  have tmaster : (BitVec.ofNat 32 (masterSteps p.magnitude)).toNat = masterSteps p.magnitude :=
    (BitVec.toNat_ofNat ..).trans (Nat.mod_eq_of_lt (by omega))
  have tcount : (BitVec.ofNat 32 (segCount (masterSteps p.magnitude))).toNat = segCount (masterSteps p.magnitude) :=
    (BitVec.toNat_ofNat ..).trans (Nat.mod_eq_of_lt hcount)
  have tticks : (BitVec.ofNat 32 (min ticks ticksMax)).toNat = min ticks ticksMax :=
    (BitVec.toNat_ofNat ..).trans (Nat.mod_eq_of_lt (by rw [ticksMax]; omega))
  have master_ne : BitVec.ofNat 32 (masterSteps p.magnitude) ≠ 0#32 := fun h => hmove (by rw [← tmaster, h]; rfl)
  have saturated : decide (ticks > ticksMax) = true → BitVec.ofNat 32 (min ticks ticksMax) = 0xFFFFFFFF#32 := fun h => by
    rw [Nat.min_eq_right (le_of_lt (of_decide_eq_true h))]
    rfl
  refine ⟨⟨?_, ?_, ?_, saturated, ?_, fun _ => rfl, fun h => absurd h master_ne⟩,
    ?_, tcount, fun _ => ?_, rfl, ?_, fun _ => rfl, ?_⟩
  · exact tmaster.trans_le hmaster
  · rw [tmaster, tcount]
  · rw [tticks]
  · exact iff_of_true master_ne ⟨rfl, rfl⟩
  · exact Nat.zero_add _
  · exact tmaster.symm
  · exact iff_of_false Bool.false_ne_true (fun h => h rfl)
  · simp only [clearPlan, SegmentInRange]
    decide

theorem Planner.plan_inv (k : Nat) (p : Planner) : (p.plan k).Inv := by
  by_cases hmove : masterSteps p.magnitude = 0
  · rw [plan_of_zeroMove k hmove]
    exact p.clearPlan_inv true p.feedZero
  · by_cases hfeed : p.feed.toNat = 0
    · rw [plan_of_feedZero k hmove hfeed]
      exact p.clearPlan_inv false true
    · exact plan_inv_of_move k hmove hfeed

/-- Of the master axis 65535 steps are taken, or all that is left. -/
theorem master_sub_share {m al : Nat} (hal : al = if m > Config.segMax then segShare m m else m) :
    m - al = m - 65535 := by
  rw [Config.segMax] at hal
  split_ifs at hal with h
  · rw [hal, segShare_self (by omega)]
  · omega

/-- A segment keeps the master axis the one with the most steps left (R206). -/
theorem Planner.masterSteps_advance_rem {p : Planner} (h : masterSteps p.rem = p.remM) :
    masterSteps p.advance.rem = p.remM - 65535 := by
  obtain ⟨lex, ley, lez⟩ := le_masterSteps p.rem
  rw [h] at lex ley lez
  obtain ⟨-, -, leftx⟩ := segment_share lex p.allocation_x
  obtain ⟨-, -, lefty⟩ := segment_share ley p.allocation_y
  obtain ⟨-, -, leftz⟩ := segment_share lez p.allocation_z
  have hx := p.allocation_x
  have hy := p.allocation_y
  have hz := p.allocation_z
  simp only [advance_rem, PerAxis.zip, masterSteps]
  rw [masterSteps] at h
  obtain hm | hm | hm : p.rem.x = p.remM ∨ p.rem.y = p.remM ∨ p.rem.z = p.remM := by omega
  · rw [hm] at hx; have := master_sub_share hx; omega
  · rw [hm] at hy; have := master_sub_share hy; omega
  · rw [hm] at hz; have := master_sub_share hz; omega

theorem segmentInRange_apply (g : Sign) {n : Nat} (h : n ≤ 65535) : SegmentInRange (BitVec.ofInt 32 (g.apply n)) := by
  rw [SegmentInRange, toInt_ofInt_apply g (by omega)]
  cases g <;> simp only [Sign.apply] <;> omega

/-- Every axis of a new segment is in range (R57). -/
theorem Planner.advance_seg_inRange {p : Planner} (h : masterSteps p.rem = p.remM) :
    SegmentInRange p.advance.seg.x ∧ SegmentInRange p.advance.seg.y ∧ SegmentInRange p.advance.seg.z := by
  obtain ⟨lex, ley, lez⟩ := le_masterSteps p.rem
  rw [h] at lex ley lez
  obtain ⟨sharex, -, -⟩ := segment_share lex p.allocation_x
  obtain ⟨sharey, -, -⟩ := segment_share ley p.allocation_y
  obtain ⟨sharez, -, -⟩ := segment_share lez p.allocation_z
  exact ⟨segmentInRange_apply _ sharex, segmentInRange_apply _ sharey, segmentInRange_apply _ sharez⟩

/-- A segment produced of a plan that has one left (R204). -/
theorem Planner.advance_inv {p : Planner} (h : p.Inv) (hleft : p.segLeft ≠ 0#32) : p.advance.Inv := by
  obtain ⟨hplan, hsum, hcount, hmaster, hrem, -, -, -⟩ := h
  have hpos : 0 < p.segLeft.toNat := Nat.pos_of_ne_zero fun h => hleft (BitVec.eq_of_toNat_eq h)
  have hremM : 0 < p.remM := segCount_pos.1 (hcount ▸ hpos)
  have hmaster := hmaster hleft
  have hleft' : p.advance.segLeft.toNat = p.segLeft.toNat - 1 := by
    rw [advance_segLeft]; bv_omega
  have hindex' : p.advance.segIndex.toNat = p.segIndex.toNat + 1 := by
    rw [advance_segIndex]; bv_omega
  have hcount' : p.segLeft.toNat - 1 = segCount (p.remM - 65535) := by
    by_cases hlast : p.remM ≤ 65535
    · rw [hcount, segCount_eq_one hremM hlast, Nat.sub_eq_zero_of_le hlast, segCount_zero]
    · rw [hcount, segCount_sub (by omega), Nat.add_sub_cancel]
  refine ⟨hplan, ?_, ?_, fun hmore => ?_, ?_, ?_, fun h => absurd h.symm Bool.false_ne_true, advance_seg_inRange hrem⟩
  · rw [hindex', hleft', advance_nseg]; omega
  · rw [hleft', advance_remM, hcount']
  · have hmore : 0 < p.remM - 65535 := by
      refine segCount_pos.1 (Nat.pos_of_ne_zero fun h => hmore (BitVec.eq_of_toNat_eq ?_))
      rw [hleft', hcount', h]
      rfl
    rw [hindex', advance_remM, advance_master]; omega
  · rw [masterSteps_advance_rem hrem, advance_remM]
  · refine iff_of_true rfl fun h => ?_
    rw [h] at hindex'
    exact absurd hindex' (by simp)

end Sys2Proof.Machine
end

section
/-!
PROOFS. Every step keeps the invariant of the block: the unit that an operation writes keeps its own, and no operation
but a completing push moves the decoder into a decoded body.
-/

namespace Sys2Proof.Machine

/-! ## The invariant under the shared updates of the state -/

theorem State.reset_inv : State.reset.Inv :=
  ⟨errorRecordInv_zero, Encoder.reset_inv, Decoder.reset_inv, fun h => absurd h (by decide), Planner.reset_inv⟩

/-- A bus error writes a legal record, and the response, which the invariant does not speak of. -/
theorem State.Inv.raise {s : State} (h : s.Inv) (dir : Dir) (off : Offset) (cause : Cause) :
    (s.raise dir off cause).Inv := by
  obtain ⟨-, henc, hdec, hcursor, hmv⟩ := h
  exact ⟨errorRecordInv_errorRecord dir off cause, henc, hdec, hcursor, hmv⟩

theorem State.Inv.clearRecord {s : State} (h : s.Inv) : ({ s with glbErr := 0#32 } : State).Inv := by
  obtain ⟨-, henc, hdec, hcursor, hmv⟩ := h
  exact ⟨errorRecordInv_zero, henc, hdec, hcursor, hmv⟩

theorem State.Inv.withEnc {s : State} (h : s.Inv) {e : Encoder} (he : e.Inv) : ({ s with enc := e } : State).Inv := by
  obtain ⟨herr, -, hdec, hcursor, hmv⟩ := h
  exact ⟨herr, he, hdec, hcursor, hmv⟩

theorem State.Inv.withDec {s : State} (h : s.Inv) {d : Decoder} (hd : d.Inv) (hcursor : CursorInv d s.rd) :
    ({ s with dec := d } : State).Inv := by
  obtain ⟨herr, henc, -, -, hmv⟩ := h
  exact ⟨herr, henc, hd, hcursor, hmv⟩

theorem State.Inv.withRd {s : State} (h : s.Inv) {r : Reader} (hcursor : CursorInv s.dec r) :
    ({ s with rd := r } : State).Inv := by
  obtain ⟨herr, henc, hdec, -, hmv⟩ := h
  exact ⟨herr, henc, hdec, hcursor, hmv⟩

theorem State.Inv.withMv {s : State} (h : s.Inv) {p : Planner} (hp : p.Inv) : ({ s with mv := p } : State).Inv := by
  obtain ⟨herr, henc, hdec, hcursor, -⟩ := h
  exact ⟨herr, henc, hdec, hcursor, hp⟩

/-- A cursor right behind the code byte is legal for every body (43_reader.md R185). -/
theorem cursorInv_one (d : Decoder) {r : Reader} (h : r.cursor = 1#8) : CursorInv d r := fun _ => by
  rw [h]
  exact ⟨le_rfl, .inl rfl⟩

/-! ## Each operation that writes a unit -/

theorem execSysCtrl_inv (softReset clrErr : Bool) {s t : State} (h : s.Inv)
    (hexec : execSysCtrl softReset clrErr s = .next t) : t.Inv := by
  injection hexec with hexec
  subst hexec
  have hreset : (if softReset then s.softReset else s).Inv := by
    split
    · exact State.reset_inv
    · exact h
  cases clrErr with
  | true => exact hreset.clearRecord
  | false => exact hreset

theorem encAppend_inv (off : Offset) (bytes : List Byte) {s : State} (h : s.Inv) : (encAppend off bytes s).Inv := by
  have ⟨_, henc, _⟩ := h
  obtain ⟨-, heq⟩ | ⟨-, -, heq⟩ | ⟨hopen, hfit, heq⟩ := encAppend_cases off bytes s <;> rw [heq]
  · exact (h.withEnc (e := { s.enc with seqErr := true }) henc).raise _ _ _
  · exact (h.withEnc (e := { s.enc with overflow := true }) henc).raise _ _ _
  · exact h.withEnc (Encoder.pushAll_inv bytes henc hopen hfit)

theorem execEncFinalize_inv {s t : State} (h : s.Inv) (hexec : execEncFinalize s = .next t) : t.Inv := by
  have ⟨_, henc, _⟩ := h
  unfold execEncFinalize at hexec
  split at hexec <;> injection hexec with hexec <;> subst hexec
  case isTrue => exact (h.withEnc (e := { s.enc with seqErr := true }) henc).raise _ _ _
  case isFalse hopen => exact h.withEnc (Encoder.finalize_inv henc (not_not.1 hopen))

theorem execEncCtrl_inv (clrErr abort : Bool) {s t : State} (h : s.Inv)
    (hexec : execEncCtrl clrErr abort s = .next t) : t.Inv := by
  injection hexec with hexec
  subst hexec
  cases abort with
  | true => exact h.withEnc (Encoder.abort_inv _)
  | false =>
    have ⟨_, henc, _⟩ := h
    cases clrErr <;> exact h.withEnc henc

theorem execDecCtrl_inv (reset clrErr : Bool) {s t : State} (h : s.Inv)
    (hexec : execDecCtrl reset clrErr s = .next t) : t.Inv := by
  injection hexec with hexec
  subst hexec
  have ⟨_, _, ⟨_, _, _, hrecord⟩, _, _⟩ := h
  have hreset : ({ s with dec := if reset then s.dec.restart else s.dec } : State).Inv := by
    split
    · exact h.withDec (Decoder.restart_inv hrecord) fun hphase => by simp at hphase
    · exact h
  have ⟨_, _, hdec, hcursor, _⟩ := hreset
  cases clrErr with
  | true => exact h.withDec (Decoder.clearErrors_inv hdec) hcursor
  | false => exact hreset

theorem decPushByte_inv (b : Byte) {s : State} (h : s.Inv) : (decPushByte b s).Inv := by
  have ⟨_, _, hdec, _, _⟩ := h
  have hdec' := decPushByte_dec_inv b hdec
  obtain ⟨d, heq, hopen⟩ | ⟨-, -, heq⟩ := decPushByte_cases b s <;> rw [heq] at hdec' ⊢
  · exact h.withDec hdec' fun hphase => (hopen hphase).elim
  · exact (h.withRd (r := { s.rd with cursor := 1#8 }) (cursorInv_one s.dec rfl)).withDec hdec' (cursorInv_one _ rfl)

theorem rdNotReady_inv (off : Offset) {s : State} (h : s.Inv) : (rdNotReady off s).Inv := by
  have ⟨_, _, _, hcursor, _⟩ := h
  exact (h.withRd (r := { s.rd with notReady := true }) hcursor).raise _ _ _

/-- A get that succeeds leaves the cursor behind the bytes it read, which are in the body. -/
theorem rdGet_inv (off : Offset) (n : Nat) {s : State} (h : s.Inv) : (rdGet off n s).Inv := by
  have ⟨_, _, _, hcursor, _⟩ := h
  obtain ⟨-, heq⟩ | ⟨-, -, heq⟩ | ⟨hphase, hfit, heq⟩ := rdGet_cases off n s <;> rw [heq]
  · exact rdNotReady_inv off h
  · exact (h.withRd (r := { s.rd with pastEnd := true }) hcursor).raise _ _ _
  · have ⟨hpos, _⟩ := hcursor hphase
    have hmoved := cursor_add hfit
    exact h.withRd (r := { s.rd with cursor := s.rd.cursor + BitVec.ofNat 8 n }) fun _ =>
      ⟨by rw [hmoved]; omega, .inr (by rw [hmoved]; exact hfit)⟩

theorem execRdCtrl_inv (rewind clrErr : Bool) {s t : State} (h : s.Inv)
    (hexec : execRdCtrl rewind clrErr s = .next t) : t.Inv := by
  injection hexec with hexec
  subst hexec
  have ⟨_, _, _, hcursor, _⟩ := h
  have hrewind : CursorInv s.dec (if rewind then { s.rd with cursor := 1#8 } else s.rd) := by
    split
    · exact cursorInv_one s.dec rfl
    · exact hcursor
  cases clrErr <;> exact h.withRd hrewind

theorem execRdCode_inv {s t : State} (h : s.Inv) (hexec : execRdCode s = .next t) : t.Inv := by
  unfold execRdCode at hexec
  split at hexec <;> injection hexec with hexec <;> subst hexec
  · exact rdNotReady_inv Off.rdCode h
  · exact h

theorem execMvCtrl_inv (plan clrErr : Bool) {s t : State} (h : s.Inv)
    (hexec : execMvCtrl plan clrErr s = .next t) : t.Inv := by
  injection hexec with hexec
  subst hexec
  cases plan with
  | true => exact h.withMv (Planner.plan_inv _ _)
  | false =>
    have ⟨_, _, _, _, hmv⟩ := h
    cases clrErr <;> exact h.withMv hmv

theorem execMvNext_inv {s t : State} (h : s.Inv) (hexec : execMvNext s = .next t) : t.Inv := by
  have ⟨_, _, _, _, hmv⟩ := h
  unfold execMvNext at hexec
  split at hexec <;> injection hexec with hexec <;> subst hexec
  case isTrue => exact (h.withMv (p := { s.mv with seqErr := true }) hmv).raise _ _ _
  case isFalse hleft => exact h.withMv (Planner.advance_inv hmv hleft)

/-! ## All operations -/

theorem exec_inv {i : Instr} {s t : State} (h : s.Inv) (hexec : exec i s = .next t) : t.Inv := by
  cases i
  case sysCtrl softReset clrErr => exact execSysCtrl_inv softReset clrErr h hexec
  case encBegin target command =>
    injection hexec with hexec; subst hexec
    exact h.withEnc (s.enc.begin_inv target command)
  case encAdd8 v =>
    injection hexec with hexec; subst hexec
    exact encAppend_inv Off.encAdd8 (le8 v) h
  case encAdd16 v =>
    injection hexec with hexec; subst hexec
    exact encAppend_inv Off.encAdd16 (le16 v) h
  case encAdd32 v =>
    injection hexec with hexec; subst hexec
    exact encAppend_inv Off.encAdd32 (le32 v) h
  case encFinalize => exact execEncFinalize_inv h hexec
  case encCtrl clrErr abort => exact execEncCtrl_inv clrErr abort h hexec
  case decCtrl reset clrErr => exact execDecCtrl_inv reset clrErr h hexec
  case decPush b =>
    injection hexec with hexec; subst hexec
    exact decPushByte_inv b h
  case rdCtrl rewind clrErr => exact execRdCtrl_inv rewind clrErr h hexec
  case rdCode => exact execRdCode_inv h hexec
  case rdGet8 =>
    injection hexec with hexec; subst hexec
    exact rdGet_inv Off.rdGet8 1 h
  case rdGet16 =>
    injection hexec with hexec; subst hexec
    exact rdGet_inv Off.rdGet16 2 h
  case rdGet32 =>
    injection hexec with hexec; subst hexec
    exact rdGet_inv Off.rdGet32 4 h
  case mvCtrl plan clrErr => exact execMvCtrl_inv plan clrErr h hexec
  case mvNext => exact execMvNext_inv h hexec
  -- What is left reads a register, or writes one that the invariant does not speak of.
  all_goals
    injection hexec with hexec
    subst hexec
    exact h

/-- Settles O19, by what a step can do: nothing, a power-on, a bus error of the generic checks, or an operation. -/
theorem stepKeepsTheInvariant : Obligations.StepKeepsTheInvariant := by
  intro s t h hstep
  obtain ⟨-, rfl⟩ | ⟨rest, -, rfl⟩ | ⟨a, rest, cause, -, -, rfl⟩ | ⟨a, rest, i, -, -, hexec⟩ := step_cases hstep
  · exact h
  · exact State.reset_inv
  · exact State.Inv.raise (s := { s with pending := rest }) h a.dir a.off cause
  · exact exec_inv (s := { s with pending := rest }) h hexec

end Sys2Proof.Machine
end

section
/-!
PROOFS. The register map against the opcode table (10_state.md R20, 20_memory.md R65, R66): some row takes an access
exactly when a register stands at its offset and takes its direction. From this, what each generic check turns away
(R61, R62, R65, R66).
-/

namespace Sys2Proof

/-! ## The register map as a list -/

/-- The single registers of R20's table, all of them. -/
def registers : List (Offset × AccessKind) := codecRegisters ++ motionRegisters

theorem inWindow_iff (off : Offset) : inWindow off = true ↔ 0x400 ≤ off.toNat ∧ off.toNat < 0xC00 := by
  rw [inWindow, Bool.and_eq_true, decide_eq_true_iff, decide_eq_true_iff]

theorem offsetKind_of_inWindow {off : Offset} (hwin : inWindow off = true) : offsetKind off = some .readOnly :=
  if_pos hwin

theorem offsetKind_of_not_inWindow {off : Offset} (hwin : inWindow off ≠ true) :
    offsetKind off = (registers.find? (fun r => r.1 == off)).map (fun r => r.2) :=
  if_neg hwin

/-- No two registers share an offset. -/
theorem registers_offsets_nodup : (registers.map Prod.fst).Nodup := by decide

/-- Outside the windows an offset has the kind of the register that stands there. -/
theorem offsetKind_eq_some_iff {off : Offset} (hwin : inWindow off ≠ true) (kind : AccessKind) :
    offsetKind off = some kind ↔ (off, kind) ∈ registers := by
  rw [offsetKind_of_not_inWindow hwin, Option.map_eq_some_iff]
  constructor
  · rintro ⟨⟨_, _⟩, hfind, rfl⟩
    have hoff := List.find?_some hfind
    obtain rfl := beq_iff_eq.1 hoff
    exact List.mem_of_find?_eq_some hfind
  · intro hmem
    have hsome : (registers.find? (fun r => r.1 == off)).isSome = true :=
      List.find?_isSome.2 ⟨(off, kind), hmem, beq_iff_eq.2 rfl⟩
    obtain ⟨r, hfind⟩ := Option.isSome_iff_exists.1 hsome
    have hoff := List.find?_some hfind
    have hr := List.inj_on_of_nodup_map registers_offsets_nodup (List.mem_of_find?_eq_some hfind) hmem
      (beq_iff_eq.1 hoff)
    exact ⟨r, hfind, congrArg Prod.snd hr⟩

/-! ## The map and the table agree -/

/-- The offsets of the single registers that take an access in a direction. -/
def reachedOffsets (dir : Dir) : List Nat := (registers.filter (fun r => r.2.allows dir)).map (fun r => r.1.toNat)

theorem mem_reachedOffsets_iff (dir : Dir) (off : Offset) :
    off.toNat ∈ reachedOffsets dir ↔ ∃ kind, (off, kind) ∈ registers ∧ kind.allows dir = true := by
  rw [reachedOffsets, List.mem_map]
  constructor
  · rintro ⟨⟨_, kind⟩, hmem, hoff⟩
    obtain rfl := BitVec.eq_of_toNat_eq hoff
    exact ⟨kind, List.mem_filter.1 hmem⟩
  · rintro ⟨kind, hmem⟩
    exact ⟨(off, kind), List.mem_filter.2 hmem, rfl⟩

theorem reachedOffsets_read_perm : (reachedOffsets .read).Perm readableOffsets := by decide

theorem reachedOffsets_write_perm : (reachedOffsets .write).Perm writableOffsets := by decide

/-- Some row takes an access exactly when its word is a single register's, or it reads in a window. -/
theorem exists_row_accepts_word_iff (a : Access) :
    (∃ r ∈ opTable, r.accepts a.word = true) ↔
      a.off.toNat ∈ reachedOffsets a.dir ∨ (a.dir = .read ∧ inWindow a.off = true) := by
  obtain ⟨dir, off, size, w⟩ := a
  have hoff : off.toNat < 4096 := off.isLt
  rw [exists_row_accepts_iff, inWindow_iff]
  cases dir with
  | read =>
    rw [word_toNat_of_read, mem_exactWords_of_read hoff, ← reachedOffsets_read_perm.mem_iff]
    exact or_congr_right ⟨fun ⟨hlow, hhigh⟩ => ⟨rfl, hlow, Nat.lt_succ_of_le hhigh⟩,
      fun ⟨_, hlow, hhigh⟩ => ⟨hlow, Nat.le_of_lt_succ hhigh⟩⟩
  | write =>
    rw [word_toNat_of_write, mem_exactWords_of_write, ← reachedOffsets_write_perm.mem_iff]
    exact or_congr_right ⟨fun h => by omega, fun ⟨hdir, _⟩ => nomatch hdir⟩

/-- No single register stands in a window. -/
theorem not_inWindow_of_mem_reachedOffsets {dir : Dir} {off : Offset} (hmem : off.toNat ∈ reachedOffsets dir) :
    inWindow off ≠ true := by
  have outside : ∀ r ∈ registers, inWindow r.1 ≠ true := by decide
  obtain ⟨kind, hreg, -⟩ := (mem_reachedOffsets_iff dir off).1 hmem
  exact outside _ hreg

/-- The opcode table holds a row for an access exactly when its offset is mapped in its direction (R66). -/
theorem exists_row_accepts_iff_allows (a : Access) :
    (∃ r ∈ opTable, r.accepts a.word = true) ↔ ∃ kind, offsetKind a.off = some kind ∧ kind.allows a.dir = true := by
  rw [exists_row_accepts_word_iff]
  by_cases hwin : inWindow a.off = true
  · have hreg : a.off.toNat ∉ reachedOffsets a.dir := fun hmem => not_inWindow_of_mem_reachedOffsets hmem hwin
    simp only [hreg, hwin, offsetKind_of_inWindow hwin, false_or, and_true, Option.some.injEq, exists_eq_left']
    cases a.dir <;> decide
  · simp only [hwin, and_false, or_false, Bool.false_eq_true, mem_reachedOffsets_iff, offsetKind_eq_some_iff hwin]

/-! ## The unmapped offsets -/

/-- R65's list of unmapped offsets. -/
abbrev UnmappedOffset (n : Nat) : Prop :=
  n = 0x01C ∨ (0x050 ≤ n ∧ n ≤ 0x05C) ∨ (0x078 ≤ n ∧ n ≤ 0x07C) ∨ (0x088 ≤ n ∧ n ≤ 0x08C) ∨
  (0x0D4 ≤ n ∧ n ≤ 0x0EC) ∨ (0x0F4 ≤ n ∧ n ≤ 0x3FC) ∨ (0xC00 ≤ n ∧ n ≤ 0xFFC)

/-- The words below 0x0F4 are R65's or a register's. -/
theorem exists_register_of_not_unmapped :
    ∀ k < 61, ¬ UnmappedOffset (4 * k) → ∃ r ∈ registers, r.1.toNat = 4 * k := by decide

/-- R65's list is what the register map leaves free. -/
theorem offsetKind_eq_none_iff {off : Offset} (haligned : off.toNat % 4 = 0) :
    offsetKind off = none ↔ UnmappedOffset off.toNat := by
  by_cases hwin : inWindow off = true
  · rw [offsetKind_of_inWindow hwin]
    rw [inWindow_iff] at hwin
    exact iff_of_false (Option.some_ne_none _) (by omega)
  · have hkind := offsetKind_eq_some_iff hwin
    constructor
    · intro hnone
      by_contra hmapped
      have hbelow : off.toNat / 4 < 61 := by
        have := off.isLt
        rw [inWindow_iff] at hwin
        omega
      have hword : 4 * (off.toNat / 4) = off.toNat := by omega
      obtain ⟨⟨off', kind⟩, hmem, hoff⟩ := exists_register_of_not_unmapped _ hbelow (by rwa [hword])
      obtain rfl : off' = off := BitVec.eq_of_toNat_eq (hoff.trans hword)
      exact Option.some_ne_none kind (((hkind kind).2 hmem).symm.trans hnone)
    · intro hfree
      have mapped : ∀ r ∈ registers, ¬ UnmappedOffset r.1.toNat := by decide
      exact Option.eq_none_iff_forall_ne_some.2 fun kind hsome => mapped _ ((hkind kind).1 hsome) hfree

/-! ## What each check turns away -/

theorem decode_of_size {a : Access} (hsize : a.size ≠ 4) : decode a = .error .size := if_pos hsize

theorem decode_of_misaligned {a : Access} (hsize : a.size = 4) (hodd : a.off.toNat % 4 ≠ 0) :
    decode a = .error .align := by
  rw [decode, if_neg (not_not.2 hsize), if_pos hodd]

/-- An aligned 4-byte access that no row takes: the map alone tells the cause. -/
theorem decode_of_no_row {a : Access} (hsize : a.size = 4) (haligned : a.off.toNat % 4 = 0)
    (hrow : ¬ ∃ r ∈ opTable, r.accepts a.word = true) :
    decode a = if (offsetKind a.off).isSome then .error .direction else .error .unmapped := by
  rw [← List.find?_isSome, Bool.not_eq_true, Option.isSome_eq_false_iff, Option.isNone_iff_eq_none] at hrow
  rw [decode, if_neg (not_not.2 hsize), if_neg (not_not.2 haligned), hrow]

theorem decode_of_unmapped {a : Access} (hsize : a.size = 4) (haligned : a.off.toNat % 4 = 0)
    (hnone : offsetKind a.off = none) : decode a = .error .unmapped := by
  rw [decode_of_no_row hsize haligned (by simp [exists_row_accepts_iff_allows, hnone]), hnone]
  rfl

theorem decode_of_direction {a : Access} {kind : AccessKind} (hsize : a.size = 4) (haligned : a.off.toNat % 4 = 0)
    (hkind : offsetKind a.off = some kind) (hdir : kind.allows a.dir = false) : decode a = .error .direction := by
  rw [decode_of_no_row hsize haligned (by simp [exists_row_accepts_iff_allows, hkind, hdir]), hkind]
  rfl

theorem exists_decode_ok_of_allows {a : Access} {kind : AccessKind} (hsize : a.size = 4)
    (haligned : a.off.toNat % 4 = 0) (hkind : offsetKind a.off = some kind) (hdir : kind.allows a.dir = true) :
    ∃ i, decode a = .ok i :=
  (exists_decode_ok_iff a).2 ⟨hsize, haligned, (exists_row_accepts_iff_allows a).2 ⟨kind, hkind, hdir⟩⟩

/-- An access to a mapped offset is performed or raises DIRECTION, never UNMAPPED. -/
theorem decode_ne_unmapped {a : Access} {kind : AccessKind} (hsize : a.size = 4) (haligned : a.off.toNat % 4 = 0)
    (hkind : offsetKind a.off = some kind) : decode a ≠ .error .unmapped := by
  cases hdir : kind.allows a.dir with
  | true =>
    obtain ⟨i, hok⟩ := exists_decode_ok_of_allows hsize haligned hkind hdir
    rw [hok]
    exact fun heq => nomatch heq
  | false =>
    rw [decode_of_direction hsize haligned hkind hdir]
    decide

/-- Settles O5: R65's list is what the register map leaves free, and the opcode table has no row there. -/
theorem unmappedOffsetsRaise : Obligations.UnmappedOffsetsRaise := by
  intro a s hsize haligned
  split
  case isTrue hfree =>
    have hnone := (offsetKind_eq_none_iff haligned).2 hfree
    exact Machine.performAccess_of_error (decode_of_unmapped hsize haligned hnone) s
  case isFalse hmapped =>
    obtain ⟨kind, hkind⟩ := Option.ne_none_iff_exists'.1 (mt (offsetKind_eq_none_iff haligned).1 hmapped)
    exact decode_ne_unmapped hsize haligned hkind

/-- Settles O6: each of the three checks answers before any row is asked, or when none takes the access. -/
theorem sizeAlignDirectionRaise : Obligations.SizeAlignDirectionRaise := by
  intro a s
  refine ⟨fun hsize => ?_, fun hsize hodd => ?_, fun kind hsize haligned hkind hdir => ?_⟩
  · exact Machine.performAccess_of_error (decode_of_size hsize) s
  · exact Machine.performAccess_of_error (decode_of_misaligned hsize hodd) s
  · exact Machine.performAccess_of_error (decode_of_direction hsize haligned hkind hdir) s

end Sys2Proof
end

section
/-!
PROOFS. What one step takes from the bus port (20_memory.md R60, 70_reset_and_hazards.md R290).
-/

namespace Sys2Proof.Machine

/-- Settles O11: the oldest access is performed, and performing a decoded access is its operation. -/
theorem stepPerformsTheDecodedAccess : Obligations.StepPerformsTheDecodedAccess := by
  intro s a rest i hpending hdecode
  rw [step_of_access hpending, performAccess_of_ok hdecode]

/-- Settles O12: the two steps that perform no access. -/
theorem stepWithoutAnAccess : Obligations.StepWithoutAnAccess := fun _ _ => ⟨step_of_nil, step_of_powerOn⟩

end Sys2Proof.Machine
end

section
/-!
PROOFS. What an operation of each unit can change (20_memory.md R72), and that a read but the gets changes nothing that
a read looks at (R68).
-/

namespace Sys2Proof.Machine

/-! ## The frame of each unit -/

/-- All that an operation of a unit may change: the unit's own state, the error record where its rules raise, and the
response. The decoder's may set the reader's cursor besides, when it enters Complete (R72). -/
def ChangesOnly (u : BlockUnit) (s t : State) : Prop :=
  match u with
  | .system => t = { s with glbErr := t.glbErr, resp := t.resp }
  | .crc => t = { s with crcAcc := t.crcAcc, resp := t.resp }
  | .encoder => t = { s with enc := t.enc, glbErr := t.glbErr, resp := t.resp }
  | .decoder => t = { s with
      dec := t.dec, resp := t.resp
      rd := if s.dec.phase ≠ .complete ∧ t.dec.phase = .complete then { s.rd with cursor := 1#8 } else s.rd }
  | .reader => t = { s with rd := t.rd, glbErr := t.glbErr, resp := t.resp }
  | .quantizer => t = { s with tqTicks := t.tqTicks, resp := t.resp }
  | .planner => t = { s with mv := t.mv, glbErr := t.glbErr, resp := t.resp }

theorem ChangesOnly.pending_eq {u : BlockUnit} {s t : State} (h : ChangesOnly u s t) : t.pending = s.pending := by
  cases u <;> exact (congrArg State.pending h :)

theorem ChangesOnly.crcAcc_eq {u : BlockUnit} {s t : State} (h : ChangesOnly u s t) (hu : u ≠ .crc) :
    t.crcAcc = s.crcAcc := by
  cases u with
  | crc => exact absurd rfl hu
  | _ => exact (congrArg State.crcAcc h :)

theorem ChangesOnly.enc_eq {u : BlockUnit} {s t : State} (h : ChangesOnly u s t) (hu : u ≠ .encoder) :
    t.enc = s.enc := by
  cases u with
  | encoder => exact absurd rfl hu
  | _ => exact (congrArg State.enc h :)

theorem ChangesOnly.dec_eq {u : BlockUnit} {s t : State} (h : ChangesOnly u s t) (hu : u ≠ .decoder) :
    t.dec = s.dec := by
  cases u with
  | decoder => exact absurd rfl hu
  | _ => exact (congrArg State.dec h :)

theorem ChangesOnly.tqTicks_eq {u : BlockUnit} {s t : State} (h : ChangesOnly u s t) (hu : u ≠ .quantizer) :
    t.tqTicks = s.tqTicks := by
  cases u with
  | quantizer => exact absurd rfl hu
  | _ => exact (congrArg State.tqTicks h :)

theorem ChangesOnly.mv_eq {u : BlockUnit} {s t : State} (h : ChangesOnly u s t) (hu : u ≠ .planner) :
    t.mv = s.mv := by
  cases u with
  | planner => exact absurd rfl hu
  | _ => exact (congrArg State.mv h :)

theorem ChangesOnly.rd_eq {u : BlockUnit} {s t : State} (h : ChangesOnly u s t) (hu : u ≠ .reader) :
    t.rd = if u = .decoder ∧ s.dec.phase ≠ .complete ∧ t.dec.phase = .complete
      then { s.rd with cursor := 1#8 } else s.rd := by
  cases u with
  | reader => exact absurd rfl hu
  | decoder => exact (congrArg State.rd h :).trans (if_congr (and_iff_right rfl).symm rfl rfl)
  | _ => exact (congrArg State.rd h :)

/-! ## The operations that several rows share -/

theorem encAppend_changesOnly (off : Offset) (bytes : List Byte) (s : State) :
    ChangesOnly .encoder s (encAppend off bytes s) := by
  obtain ⟨-, heq⟩ | ⟨-, -, heq⟩ | ⟨-, -, heq⟩ := encAppend_cases off bytes s <;> rw [heq] <;> rfl

theorem rdGet_changesOnly (off : Offset) (n : Nat) (s : State) : ChangesOnly .reader s (rdGet off n s) := by
  obtain ⟨-, heq⟩ | ⟨-, -, heq⟩ | ⟨-, -, heq⟩ := rdGet_cases off n s <;> rw [heq] <;> rfl

/-- A change of the decoder that does not enter Complete leaves the cursor. -/
theorem changesOnly_of_not_entered {s t : State} (hphase : ¬(s.dec.phase ≠ .complete ∧ t.dec.phase = .complete))
    (h : t = { s with dec := t.dec, resp := t.resp }) : ChangesOnly .decoder s t := by
  unfold ChangesOnly
  dsimp only
  rwa [if_neg hphase]

/-- A push that completes a frame sets the cursor. -/
theorem changesOnly_of_entered {s t : State} (hphase : s.dec.phase ≠ .complete ∧ t.dec.phase = .complete)
    (h : t = { s with dec := t.dec, rd := { s.rd with cursor := 1#8 }, resp := t.resp }) :
    ChangesOnly .decoder s t := by
  unfold ChangesOnly
  dsimp only
  rwa [if_pos hphase]

theorem execDecPush_changesOnly (b : Byte) {s t : State} (h : execDecPush b s = .next t) :
    ChangesOnly .decoder s t := by
  injection h with h
  subst h
  obtain ⟨d, heq, hopen⟩ | ⟨hphase, -, heq⟩ := decPushByte_cases b s <;> rw [heq]
  · exact changesOnly_of_not_entered (fun ⟨_, hafter⟩ => hopen hafter) rfl
  · exact changesOnly_of_entered ⟨by rw [hphase]; decide, rfl⟩ rfl

/-- DEC.CTRL stays in its phase, or goes back to AwaitSentinel. -/
theorem execDecCtrl_changesOnly (reset clrErr : Bool) {s t : State} (h : execDecCtrl reset clrErr s = .next t) :
    ChangesOnly .decoder s t := by
  injection h with h
  subst h
  refine changesOnly_of_not_entered (fun ⟨hbefore, hafter⟩ => ?_) rfl
  cases reset with
  | true => cases clrErr <;> exact DecPhase.noConfusion hafter
  | false => cases clrErr <;> exact hbefore hafter

/-! ## All operations -/

/-- An operation but a soft reset changes its own unit only. -/
theorem exec_changesOnly {i : Instr} {s t : State} (h : exec i s = .next t)
    (hreset : ∀ clrErr, i ≠ .sysCtrl true clrErr) : ChangesOnly (unitOf i) s t := by
  cases i
  case sysCtrl softReset clrErr =>
    injection h with h; subst h
    cases softReset with
    | true => exact absurd rfl (hreset clrErr)
    | false => cases clrErr <;> rfl
  case encAdd8 v =>
    injection h with h; subst h
    exact encAppend_changesOnly Off.encAdd8 (le8 v) s
  case encAdd16 v =>
    injection h with h; subst h
    exact encAppend_changesOnly Off.encAdd16 (le16 v) s
  case encAdd32 v =>
    injection h with h; subst h
    exact encAppend_changesOnly Off.encAdd32 (le32 v) s
  case encFinalize =>
    simp only [exec, execEncFinalize] at h
    split at h <;> injection h with h <;> subst h <;> rfl
  case decCtrl reset clrErr => exact execDecCtrl_changesOnly reset clrErr h
  case decPush b => exact execDecPush_changesOnly b h
  case decStatus | decErrinfo | decBody =>
    injection h with h; subst h
    exact changesOnly_of_not_entered (fun ⟨hbefore, hafter⟩ => hbefore hafter) rfl
  case rdCode =>
    simp only [exec, execRdCode] at h
    split at h <;> injection h with h <;> subst h <;> rfl
  case rdGet8 =>
    injection h with h; subst h
    exact rdGet_changesOnly Off.rdGet8 1 s
  case rdGet16 =>
    injection h with h; subst h
    exact rdGet_changesOnly Off.rdGet16 2 s
  case rdGet32 =>
    injection h with h; subst h
    exact rdGet_changesOnly Off.rdGet32 4 s
  case mvNext =>
    simp only [exec, execMvNext] at h
    split at h <;> injection h with h <;> subst h <;> rfl
  -- What is left ends with `ok` or `rdata` on every path.
  all_goals
    injection h with h
    subst h
    rfl

/-- A soft reset gives the reset state, with CLR_ERR or without it. -/
theorem exec_softReset (clrErr : Bool) (s : State) :
    exec (.sysCtrl true clrErr) s = .next { State.reset with pending := s.pending, resp := .ok } := by
  cases clrErr <;> rfl

/-- Settles O16: a soft reset gives the reset state, every other operation changes its own unit only. -/
theorem unitsAreIsolated : Obligations.UnitsAreIsolated := by
  intro i s t hexec
  have hsoft : ∀ clrErr, i = .sysCtrl true clrErr → t = { State.reset with pending := s.pending, resp := .ok } := by
    rintro clrErr rfl
    rw [exec_softReset, Host.Outcome.next.injEq] at hexec
    exact hexec.symm
  refine ⟨?_, hsoft, fun hother => ?_⟩
  · by_cases hreset : ∃ clrErr, i = .sysCtrl true clrErr
    · obtain ⟨clrErr, hi⟩ := hreset
      rw [hsoft clrErr hi]
    · exact (exec_changesOnly hexec fun clrErr hi => hreset ⟨clrErr, hi⟩).pending_eq
  · have h := exec_changesOnly hexec hother
    exact ⟨h.crcAcc_eq, h.enc_eq, h.dec_eq, h.tqTicks_eq, h.mv_eq, h.rd_eq⟩

/-! ## Reads -/

/-- A read that is no get and not RD.CODE answers a value, and the same value whatever was answered before it. -/
theorem exec_read_answers {i : Instr} {s t : State} (hread : (encode i).dir = .read) (h8 : i ≠ .rdGet8)
    (h16 : i ≠ .rdGet16) (h32 : i ≠ .rdGet32) (hcode : i ≠ .rdCode) (h : exec i s = .next t) :
    ∃ v, t = s.answer v ∧ ∀ w, exec i (s.answer w) = .next (s.answer v) := by
  cases i
  case rdGet8 => exact absurd rfl h8
  case rdGet16 => exact absurd rfl h16
  case rdGet32 => exact absurd rfl h32
  case rdCode => exact absurd rfl hcode
  -- Of the rest, the writes contradict `hread`, and each read is one `State.answer`.
  all_goals cases hread
  all_goals
    injection h with h
    exact ⟨_, h.symm, fun _ => rfl⟩

/-- RD.CODE looks at the decoder only, which neither its answer nor its failure changes. -/
theorem execRdCode_idempotent {s t : State} (h : execRdCode s = .next t) : execRdCode t = .next t := by
  by_cases hfails : s.dec.ready = false ∨ s.dec.len = 0#8
  · rw [execRdCode, if_pos hfails, Host.Outcome.next.injEq] at h
    subst h
    exact if_pos hfails
  · rw [execRdCode, if_neg hfails, Host.Outcome.next.injEq] at h
    subst h
    exact if_neg hfails

/-- Settles O17: RD.CODE by itself; every other read changes the response alone, and answers the same under any. -/
theorem readsAreIdempotent : Obligations.ReadsAreIdempotent := by
  intro i s t hread h8 h16 h32 hexec
  by_cases hcode : i = .rdCode
  · subst hcode
    exact execRdCode_idempotent hexec
  · obtain ⟨v, rfl, hagain⟩ := exec_read_answers hread h8 h16 h32 hcode hexec
    exact hagain v

end Sys2Proof.Machine
end

section
/-!
PROOFS. The opcode table against the encoder (30_encoding.md R80 to R83, R91): no access word is of two rows, every row
builds an operation whose own access has the row's word, and the operands that the encoder writes are the ones the row
cuts.
-/

namespace Sys2Proof

/-! ## One row per access word -/

/-- Two rows disagree in a bit that both their masks keep. -/
def Row.Disjoint (r r' : Row) : Prop := r.pattern &&& r'.mask ≠ r'.pattern &&& r.mask

/-- No access word is of two disjoint rows. -/
theorem Row.Disjoint.not_accepts {r r' : Row} (h : r.Disjoint r') {aw : AccessWord} (hacc : r.accepts aw = true) :
    ¬ r'.accepts aw = true := by
  intro hacc'
  rw [Row.accepts, beq_iff_eq] at hacc hacc'
  refine h ?_
  rw [← hacc, ← hacc', BitVec.and_assoc, BitVec.and_assoc, BitVec.and_comm r.mask]

theorem opTable_disjoint : opTable.Pairwise Row.Disjoint := by
  unfold Row.Disjoint
  decide +kernel

/-- Of disjoint rows that all take one access word there is at most one. -/
theorem length_le_one_of_accepts {aw : AccessWord} :
    ∀ {rows : List Row}, rows.Pairwise Row.Disjoint → (∀ r ∈ rows, r.accepts aw = true) → rows.length ≤ 1
  | [], _, _ => Nat.zero_le 1
  | [_], _, _ => Nat.le_refl 1
  | _ :: _ :: _, hdisjoint, hacc => by
    obtain ⟨hhead, -⟩ := List.pairwise_cons.1 hdisjoint
    obtain ⟨hfirst, htail⟩ := List.forall_mem_cons.1 hacc
    exact absurd (htail _ List.mem_cons_self) ((hhead _ List.mem_cons_self).not_accepts hfirst)

theorem eq_of_accepts {r r' : Row} (hr : r ∈ opTable) (hr' : r' ∈ opTable) {aw : AccessWord}
    (hacc : r.accepts aw = true) (hacc' : r'.accepts aw = true) : r = r' := by
  by_contra hne
  have symm : Std.Symm Row.Disjoint := ⟨fun _ _ h => h.symm⟩
  exact (opTable_disjoint.forall hr hr' hne).not_accepts hacc hacc'

/-- Settles O3: disjoint rows take a word at most once, and the register map says whether one takes it. -/
theorem oneRowPerLegalAccess : Obligations.OneRowPerLegalAccess := by
  intro a _ _
  have hle : (opTable.filter (fun r => r.accepts a.word)).length ≤ 1 :=
    length_le_one_of_accepts (opTable_disjoint.filter _) fun r hr => (List.mem_filter.1 hr).2
  have hpos : 0 < (opTable.filter (fun r => r.accepts a.word)).length ↔
      (offsetKind a.off).any (fun kind => kind.allows a.dir) = true := by
    rw [List.length_filter_pos_iff, exists_row_accepts_iff_allows, Option.any_eq_true]
  split
  case isTrue hlegal => exact Nat.le_antisymm hle (hpos.2 hlegal)
  case isFalse hillegal => exact Nat.eq_zero_of_not_pos (mt hpos.1 hillegal)

/-! ## What decoding answers -/

/-- An aligned 4-byte access decodes to what the row that takes it builds: no other row takes it. -/
theorem decode_of_row {a : Access} {r : Row} (hsize : a.size = 4) (haligned : a.off.toNat % 4 = 0) (hr : r ∈ opTable)
    (hacc : r.accepts a.word = true) : decode a = .ok (r.build a.off a.wdata) := by
  obtain ⟨r', hfind⟩ := Option.isSome_iff_exists.1
    (List.find?_isSome (p := fun r => r.accepts a.word).2 ⟨r, hr, hacc⟩)
  have hacc' := List.find?_some hfind
  obtain rfl := eq_of_accepts hr (List.mem_of_find?_eq_some hfind) hacc hacc'
  rw [decode, if_neg (not_not.2 hsize), if_neg (not_not.2 haligned), hfind]

/-- What decodes is an aligned 4-byte access that some row takes, and the answer is what that row builds. -/
theorem decode_eq_ok_iff (a : Access) (i : Instr) :
    decode a = .ok i ↔ a.size = 4 ∧ a.off.toNat % 4 = 0 ∧
      ∃ r ∈ opTable, r.accepts a.word = true ∧ r.build a.off a.wdata = i := by
  constructor
  · intro hok
    obtain ⟨hsize, haligned, r, hr, hacc⟩ := (exists_decode_ok_iff a).1 ⟨i, hok⟩
    rw [decode_of_row hsize haligned hr hacc, Except.ok.injEq] at hok
    exact ⟨hsize, haligned, r, hr, hacc, hok⟩
  · rintro ⟨hsize, haligned, r, hr, hacc, rfl⟩
    exact decode_of_row hsize haligned hr hacc

/-! ## The operands of a write -/

@[simp] theorem ctrlBit_ctrlWord_zero (bit0 bit1 : Bool) : ctrlBit (ctrlWord bit0 bit1) 0 = bit0 := by
  cases bit0 <;> cases bit1 <;> rfl

@[simp] theorem ctrlBit_ctrlWord_one (bit0 bit1 : Bool) : ctrlBit (ctrlWord bit0 bit1) 1 = bit1 := by
  cases bit0 <;> cases bit1 <;> rfl

/-- The field at bit 0 is what was written there, whatever stands above it. -/
theorem field_append_low {m n : Nat} (hi : BitVec m) (lo : BitVec n) (h : n ≤ 32) :
    field ((hi ++ lo).setWidth 32) 0 n = lo := by
  refine BitVec.eq_of_getLsbD_eq fun i hlt => ?_
  have hword : i < 32 := by omega
  simp [field, BitVec.getLsbD_append, hlt, hword]

/-- The field above one of `n` bits is what was written there. -/
theorem field_append_high {m n : Nat} (hi : BitVec m) (lo : BitVec n) (h : n + m ≤ 32) :
    field ((hi ++ lo).setWidth 32) n m = hi := by
  refine BitVec.eq_of_getLsbD_eq fun i hlt => ?_
  have hword : n + i < 32 := by omega
  simp [field, BitVec.getLsbD_append, hlt, hword]

theorem field_setWidth {n : Nat} (v : BitVec n) (h : n ≤ 32) : field (v.setWidth 32) 0 n = v := by
  refine BitVec.eq_of_getLsbD_eq fun i hlt => ?_
  have hword : i < 32 := by omega
  simp [field, hlt, hword]

/-! ## The words of a window -/

/-- The row that reads the ENC_FRAME window. -/
def frameRow : Row := ⟨0x0400#13, 0x1C00#13, fun off _ => .encFrame (wordIndex off)⟩

/-- The row that reads the DEC_BODY window. -/
def bodyRow : Row := ⟨0x0800#13, 0x1C00#13, fun off _ => .decBody (wordIndex off)⟩

/-- The table's rows are those of the single registers and those of the two windows. -/
theorem row_cases {r : Row} (hr : r ∈ opTable) : r.mask = 0x1FFF#13 ∨ r = frameRow ∨ r = bodyRow := by
  have windows : opTable.filter (fun r => r.mask != 0x1FFF#13) = [frameRow, bodyRow] := rfl
  by_cases hmask : r.mask = 0x1FFF#13
  · exact .inl hmask
  · have hmem : r ∈ opTable.filter (fun r => r.mask != 0x1FFF#13) := List.mem_filter.2 ⟨hr, bne_iff_ne.2 hmask⟩
    rw [windows, List.mem_pair] at hmem
    exact .inr hmem

theorem wordIndex_eq (off : Offset) : wordIndex off = off.toNat / 4 % 256 := by
  rw [wordIndex, BitVec.extractLsb'_toNat, Nat.shiftRight_eq_div_pow]

theorem wordIndex_lt (off : Offset) : wordIndex off < 256 := BitVec.isLt _

/-- The access word of an aligned access is its window's start and the word's index in the window. -/
theorem word_toNat_eq {a : Access} (haligned : a.off.toNat % 4 = 0) :
    a.word.toNat = 1024 * (a.word.toNat / 1024) + 4 * wordIndex a.off := by
  obtain ⟨dir, off, size, w⟩ := a
  have hindex : 4 * wordIndex off = off.toNat % 1024 := by
    rw [wordIndex_eq]
    dsimp only at haligned
    omega
  cases dir with
  | read => rw [word_toNat_of_read, hindex, Nat.div_add_mod]
  | write => rw [word_toNat_of_write, hindex]; omega

/-- Two aligned accesses that one window row takes at one index have one access word. -/
theorem word_eq_of_wordIndex_eq {r : Row} (hmask : r.mask = 0x1C00#13) {a b : Access}
    (ha : a.off.toNat % 4 = 0) (hb : b.off.toNat % 4 = 0) (hacca : r.accepts a.word = true)
    (haccb : r.accepts b.word = true) (hindex : wordIndex a.off = wordIndex b.off) : a.word = b.word := by
  rw [accepts_of_windowMask hmask] at hacca haccb
  refine BitVec.eq_of_toNat_eq ?_
  rw [word_toNat_eq ha, word_toNat_eq hb, hacca, haccb, hindex]

/-- Word `k` of a window stands `4 * k` bytes above the window's start. -/
theorem window_off_toNat {base : Offset} {k : Nat} (hbase : base.toNat ≤ 0x800) (hk : k < 256) :
    (base + BitVec.ofNat 12 (4 * k)).toNat = base.toNat + 4 * k := by
  rw [BitVec.toNat_add, BitVec.toNat_ofNat]
  omega

/-! ## Decoding what the encoder writes -/

/-- An access to a single register: its row stands where the operation's constructor does, and cuts the operands that
the data word carries. -/
theorem decode_encode_of_register {i : Instr} {dir : Dir} {off : Offset} {v : Word} {pattern : AccessWord}
    {build : Word → Instr} (hencode : encode i = ⟨dir, off, 4, v⟩)
    (hrow : opTable[i.ctorIdx]? = some (exactRow pattern build))
    (hword : (Access.mk dir off 4 0#32).word = pattern) (haligned : off.toNat % 4 = 0) (hbuild : build v = i) :
    decode (encode i) = .ok i := by
  rw [decode_eq_ok_iff, hencode]
  exact ⟨rfl, haligned, _, List.mem_of_getElem? hrow,
    (accepts_of_exactMask rfl _).2 (congrArg BitVec.toNat hword.symm), hbuild⟩

/-- A read of word `k` of a window. -/
theorem decode_encode_of_window {i : Instr} {base : Offset} {k : Nat} {pattern : AccessWord} {build : Nat → Instr}
    (hencode : encode i = .rd (base + BitVec.ofNat 12 (4 * k)))
    (hrow : opTable[i.ctorIdx]? = some ⟨pattern, 0x1C00#13, fun off _ => build (wordIndex off)⟩)
    (hword : base.toNat = pattern.toNat) (hbase : base.toNat = 0x400 ∨ base.toNat = 0x800) (hk : k < 256)
    (hbuild : build k = i) : decode (encode i) = .ok i := by
  have hoff := window_off_toNat (base := base) (by omega) hk
  have hindex : wordIndex (base + BitVec.ofNat 12 (4 * k)) = k := by
    rw [wordIndex_eq, hoff]
    omega
  rw [decode_eq_ok_iff, hencode]
  refine ⟨rfl, ?_, _, List.mem_of_getElem? hrow, (accepts_of_windowMask rfl _).2 ?_, ?_⟩
  · rw [Access.rd, hoff]
    omega
  · rw [Access.rd, word_toNat_of_read, hoff, ← hword]
    omega
  · exact (congrArg build hindex).trans hbuild

/-- Settles O1: the operation's row takes its access, and cuts from the data word or the offset what stood there. -/
theorem decodeEncodeWellFormed : Obligations.DecodeEncodeWellFormed := by
  intro i hwf
  cases i
  case encFrame k =>
    exact decode_encode_of_window rfl rfl rfl (.inl rfl) (of_decide_eq_true hwf) rfl
  case decBody k =>
    exact decode_encode_of_window rfl rfl rfl (.inr rfl) (of_decide_eq_true hwf) rfl
  case crcCtrl reset =>
    exact decode_encode_of_register rfl rfl rfl rfl (congrArg Instr.crcCtrl (ctrlBit_ctrlWord_zero reset false))
  case sysCtrl bit0 bit1 | encCtrl bit0 bit1 | decCtrl bit0 bit1 | rdCtrl bit0 bit1 | mvCtrl bit0 bit1 =>
    exact decode_encode_of_register rfl rfl rfl rfl
      (congrArg₂ _ (ctrlBit_ctrlWord_zero bit0 bit1) (ctrlBit_ctrlWord_one bit0 bit1))
  case encBegin target command =>
    exact decode_encode_of_register rfl rfl rfl rfl
      (congrArg₂ _ (field_append_low command target (by decide)) (field_append_high command target (by decide)))
  case crcUpdate v | encAdd8 v | encAdd16 v | decPush v =>
    exact decode_encode_of_register rfl rfl rfl rfl (congrArg _ (field_setWidth v (by decide)))
  -- What is left reads a register, writes the whole data word, or has no operand.
  all_goals exact decode_encode_of_register rfl rfl rfl rfl rfl

/-! ## Encoding what was decoded -/

/-- The rows build the constructors of `Instr` in their order. -/
theorem opTable_build_ctorIdx (off : Offset) (w : Word) :
    opTable.map (fun r => (r.build off w).ctorIdx) = List.range 52 := rfl

theorem getElem?_ctorIdx_build {r : Row} (hr : r ∈ opTable) (off : Offset) (w : Word) :
    opTable[(r.build off w).ctorIdx]? = some r := by
  obtain ⟨n, hn⟩ := List.mem_iff_getElem?.1 hr
  have hbuild : (List.range 52)[n]? = some (r.build off w).ctorIdx := by
    rw [← opTable_build_ctorIdx off w, List.getElem?_map, hn]
    rfl
  obtain ⟨_, hindex⟩ := List.getElem?_eq_some_iff.1 hbuild
  rw [← hindex, List.getElem_range, hn]

/-- The row that built an operation is known from the operation. -/
theorem eq_of_build_eq {r r' : Row} (hr : r ∈ opTable) (hr' : r' ∈ opTable) {off off' : Offset} {w w' : Word}
    (h : r.build off w = r'.build off' w') : r = r' := by
  have hrow := getElem?_ctorIdx_build hr off w
  rw [h, getElem?_ctorIdx_build hr' off' w', Option.some.injEq] at hrow
  exact hrow.symm

/-- A window's index has eight bits, and every other operand is exact in its type. -/
theorem wf_build {r : Row} (hr : r ∈ opTable) (off : Offset) (w : Word) : (r.build off w).wf = true := by
  have single : ∀ r ∈ opTable.filter (fun r => r.mask == 0x1FFF#13), (r.build off w).wf = true :=
    List.all_eq_true.1 rfl
  obtain hmask | rfl | rfl := row_cases hr
  · exact single r (List.mem_filter.2 ⟨hr, beq_iff_eq.2 hmask⟩)
  · exact decide_eq_true (wordIndex_lt off)
  · exact decide_eq_true (wordIndex_lt off)

/-- Two accesses that decode to one operation have one access word. -/
theorem word_eq_of_decode_eq {a b : Access} {i : Instr} (ha : decode a = .ok i) (hb : decode b = .ok i) :
    a.word = b.word := by
  obtain ⟨-, haligned, r, hr, hacc, hbuild⟩ := (decode_eq_ok_iff a i).1 ha
  obtain ⟨-, haligned', r', hr', hacc', hbuild'⟩ := (decode_eq_ok_iff b i).1 hb
  obtain rfl := eq_of_build_eq hr hr' (hbuild.trans hbuild'.symm)
  have hsame := hbuild.trans hbuild'.symm
  obtain hmask | rfl | rfl := row_cases hr
  · rw [accepts_of_exactMask hmask] at hacc hacc'
    exact BitVec.eq_of_toNat_eq (hacc.symm.trans hacc')
  · exact word_eq_of_wordIndex_eq rfl haligned haligned' hacc hacc' (Instr.encFrame.inj hsame)
  · exact word_eq_of_wordIndex_eq rfl haligned haligned' hacc hacc' (Instr.decBody.inj hsame)

/-- Settles O2: the operation's own access decodes to it as well (O1), and one operation has one access word. -/
theorem decodedAccessReencodes : Obligations.DecodedAccessReencodes := by
  intro a i hdecode
  obtain ⟨hsize, -, r, hr, -, hbuild⟩ := (decode_eq_ok_iff a i).1 hdecode
  have hwf : i.wf = true := hbuild ▸ wf_build hr a.off a.wdata
  have hown := decodeEncodeWellFormed i hwf
  obtain ⟨hsize', -⟩ := (decode_eq_ok_iff _ i).1 hown
  exact ⟨hwf, word_eq_of_decode_eq hown hdecode, hsize'.trans hsize.symm⟩

/-! ## Words of the table at the port -/

theorem decode_of_decodeTableWord {nbits w : Nat} {i : Instr} (h : decodeTableWord nbits w = some i) :
    decode (Access.ofBits (w % 2 ^ nbits)) = .ok i := by
  unfold decodeTableWord at h
  split at h
  next j hok => rw [hok, Option.some.inj h]
  next => exact nomatch h

/-- Settles O13: the placed word is the oldest access of the port, and the step lets it go. -/
theorem placedWordIsPerformed : Obligations.PlacedWordIsPerformed := by
  intro s nbits w i htable
  rw [Machine.step_of_access (s := s.withFetchWord nbits w) rfl,
    Machine.performAccess_of_ok (decode_of_decodeTableWord htable)]
  rfl

/-- Settles O14, by evaluating the samples. -/
theorem encodingSamples : Obligations.EncodingSamples := by
  unfold Obligations.EncodingSamples
  decide

end Sys2Proof
end

section
/-!
PROOFS. An access to a single register, from its data word (30_encoding.md R80, R81).
-/

namespace Sys2Proof

/-- An aligned 4-byte access to a single register decodes to what the register's row, which stands where the operation's
constructor does, builds from the data word. -/
theorem decode_of_exactRow {dir : Dir} {off : Offset} {w : Word} {pattern : AccessWord} {build : Word → Instr}
    (hrow : opTable[(build w).ctorIdx]? = some (exactRow pattern build))
    (hword : (Access.mk dir off 4 0#32).word = pattern) (haligned : off.toNat % 4 = 0) :
    decode ⟨dir, off, 4, w⟩ = .ok (build w) :=
  decode_of_row rfl haligned (List.mem_of_getElem? hrow)
    ((accepts_of_exactMask rfl _).2 (congrArg BitVec.toNat hword.symm))

end Sys2Proof
end

section
/-!
PROOFS. The checksum engine (40_crc.md): the two forms of the update (R100), the CRC of a sequence (R104), and the three
operations of the unit (R101 to R103). The one idea is that the update sees accumulator and byte through their XOR only.
-/

namespace Sys2Proof.Machine

/-! ## The shifts -/

theorem crc8Shifts_succ (n : Nat) (c : Byte) : crc8Shifts (n + 1) c = crc8Shifts n (crc8Shift c) := rfl

theorem crc8Shifts_eq_iterate (n : Nat) (c : Byte) : crc8Shifts n c = crc8Shift^[n] c := by
  induction n generalizing c with
  | zero => rfl
  | succ n ih => rw [crc8Shifts_succ, ih, Function.iterate_succ_apply]

@[simp] theorem crc8Shifts_zero (n : Nat) : crc8Shifts n 0#8 = 0#8 := by
  induction n with
  | zero => rfl
  | succ n ih => exact ih

/-! ## The bit-serial form -/

/-- One round of the bit-serial form, with the rest of the byte XORed in, is one shift: the bit that is mixed is the bit
that the shift takes out. -/
theorem crc8Shift_xor_eq_mix (c b : Byte) :
    crc8Shift (c ^^^ b) = (if (c ^^^ b).getLsbD 0 then (c >>> 1) ^^^ 0x8C#8 else c >>> 1) ^^^ (b >>> 1) := by
  rw [crc8Shift, BitVec.ushiftRight_xor_distrib, Config.crcPoly]
  split
  · ac_rfl
  · rfl

/-- After `n` rounds the bit-serial form is behind the shifts by the bits of the byte that it has not mixed yet. -/
theorem crc8BitSerial_eq_shifts (n : Nat) (c b : Byte) :
    crc8BitSerial n c b = crc8Shifts n (c ^^^ b) ^^^ (b >>> n) := by
  induction n generalizing c b with
  | zero => simp [crc8BitSerial, crc8Shifts]
  | succ n ih =>
    rw [crc8BitSerial, ih, crc8Shifts_succ, crc8Shift_xor_eq_mix, ← BitVec.shiftRight_add, Nat.add_comm 1 n]

/-- All eight bits of the byte are mixed after eight rounds. -/
theorem crc8Update_eq_bitSerial (c b : Byte) : crc8Update c b = crc8BitSerial 8 c b := by
  rw [crc8BitSerial_eq_shifts, BitVec.ushiftRight_eq_zero (Nat.le_refl 8), BitVec.xor_zero]
  rfl

/-- Settles O26: the loop is the iterate, and the bit-serial form has nothing left to mix after eight rounds. -/
theorem crcUpdateHasBothForms : Obligations.CrcUpdateHasBothForms := fun c b =>
  ⟨crc8Shifts_eq_iterate 8 (c ^^^ b), crc8Update_eq_bitSerial c b, by decide +kernel⟩

/-! ## The CRC of a sequence -/

/-- The update is a table over the XOR of accumulator and byte (R104 (c)). -/
theorem crc8Update_eq_table (c b : Byte) : crc8Update c b = crc8Update 0#8 (c ^^^ b) := by
  rw [crc8Update, crc8Update, BitVec.zero_xor]

/-- Folding the accumulator into itself gives zero. -/
@[simp] theorem crc8Update_self (c : Byte) : crc8Update c c = 0#8 := by
  rw [crc8Update, BitVec.xor_self, crc8Shifts_zero]

theorem crc8_of_zeros {u : List Byte} (hzero : ∀ b ∈ u, b = 0#8) : crc8 u = 0#8 := by
  induction u with
  | nil => rfl
  | cons b u ih =>
    obtain ⟨rfl, htail⟩ := List.forall_mem_cons.1 hzero
    calc crc8 (0#8 :: u) = crc8From (crc8Update 0#8 0#8) u := crc8From_cons _ _ _
      _ = crc8 u := by rw [crc8Update_self]; rfl
      _ = 0#8 := ih htail

/-- The zero residue (R104 (d)). -/
theorem crc8_concat_self (u : List Byte) : crc8 (u ++ [crc8 u]) = 0#8 := by
  rw [crc8_concat, crc8Update_self]

/-- Settles O27, part by part. -/
theorem crcOfASequence : Obligations.CrcOfASequence := fun u v =>
  ⟨rfl, crc8_append u v, crc8_of_zeros, crc8Update_eq_table, crc8_concat_self u⟩

/-! ## The operations of the unit -/

theorem exec_crcUpdate (b : Byte) (s : State) :
    exec (.crcUpdate b) s = .next { s with crcAcc := crc8Update s.crcAcc b, resp := .ok } := rfl

theorem exec_crcCtrl (reset : Bool) (s : State) :
    exec (.crcCtrl reset) s = .next { s with crcAcc := if reset then 0#8 else s.crcAcc, resp := .ok } := rfl

theorem exec_crcValue (s : State) :
    exec .crcValue s = .next { s with resp := .rdata (s.crcAcc.setWidth 32) } := rfl

/-- Settles O25: each register's row cuts its operand from the data word, and each operation has its equation. -/
theorem checksumOperations : Obligations.ChecksumOperations := by
  intro s w
  refine ⟨?update, ?ctrl, ?value, fun b => exec_crcUpdate b s, exec_crcCtrl true s, exec_crcCtrl false s,
    exec_crcValue s⟩
  case update => exact decode_of_exactRow (build := fun w => .crcUpdate (field w 0 8)) rfl rfl rfl
  case ctrl => exact decode_of_exactRow (build := fun w => .crcCtrl (ctrlBit w 0)) rfl rfl rfl
  case value => exact decode_of_exactRow (build := fun _ => .crcValue) rfl rfl rfl

end Sys2Proof.Machine
end

section
/-!
PROOFS. The packet encoder, operation by operation (41_encoder.md R120 to R129), and which operations leave its buffer
alone (R130 (d)).
-/

namespace Sys2Proof.Machine

/-! ## BEGIN -/

theorem exec_encBegin (target command : Byte) (s : State) :
    exec (.encBegin target command) s = .next { s with enc := s.enc.begin target command, resp := .ok } := rfl

/-- Settles O29: BEGIN gives every field but the sticky bits, and every byte of the buffer. -/
theorem encoderBegin : Obligations.EncoderBegin := fun s _ target command =>
  ⟨decode_of_exactRow (build := fun w => .encBegin (field w 0 8) (field w 8 8)) rfl rfl rfl,
    _, exec_encBegin target command s, rfl, s.enc.begin_buf_read target command⟩

/-! ## The appends -/

/-- The register that a field's append writes (R121 to R123). -/
def Payload.addOff : Payload → Offset
  | .u8 _ => Off.encAdd8
  | .u16 _ => Off.encAdd16
  | .u32 _ => Off.encAdd32

/-- The three appends are one operation, over the bytes of a field. -/
theorem exec_add (f : Payload) (s : State) : exec f.add s = .next (encAppend f.addOff f.bytes s) := by
  cases f <;> rfl

/-- Every append is the append of a field, at its register and with its bytes. -/
theorem exists_payload_of_append {i : Instr} {off : Offset} {bytes : List Byte}
    (h : (∃ v, i = .encAdd8 v ∧ off = 0x024#12 ∧ bytes = [v]) ∨
      (∃ v, i = .encAdd16 v ∧ off = 0x028#12 ∧ bytes = [v.extractLsb' 0 8, v.extractLsb' 8 8]) ∨
      (∃ v, i = .encAdd32 v ∧ off = 0x02C#12 ∧
        bytes = [v.extractLsb' 0 8, v.extractLsb' 8 8, v.extractLsb' 16 8, v.extractLsb' 24 8])) :
    ∃ f : Payload, i = f.add ∧ off = f.addOff ∧ bytes = f.bytes := by
  obtain ⟨v, hv⟩ | ⟨v, hv⟩ | ⟨v, hv⟩ := h
  · exact ⟨.u8 v, hv⟩
  · exact ⟨.u16 v, hv⟩
  · exact ⟨.u32 v, hv⟩

/-- Appended bytes change the buffer, the length and the CRC. -/
theorem Encoder.pushAll_eq (bytes : List Byte) : ∀ e : Encoder,
    e.pushAll bytes = { e with
      len := (e.pushAll bytes).len, crc := crc8From e.crc bytes, buf := (e.pushAll bytes).buf } := by
  induction bytes with
  | nil => exact fun _ => rfl
  | cons v bytes ih => exact fun e => ih (e.push v)

/-- An append whose bytes fit, in an open frame that meets the invariant. -/
theorem encAppend_spec (off : Offset) {bytes : List Byte} {s : State} (hinv : s.enc.Inv) (hopen : s.enc.state = .opened)
    (hfit : s.enc.len.toNat + bytes.length ≤ 255) :
    let t := encAppend off bytes s
    t = { s with
      resp := .ok,
      enc := { s.enc with len := t.enc.len, crc := crc8From s.enc.crc bytes, buf := t.enc.buf } } ∧
    t.enc.len.toNat = s.enc.len.toNat + bytes.length ∧
    ∀ a, t.enc.buf.read a =
      if 2 + s.enc.len.toNat ≤ a then (bytes[a - (2 + s.enc.len.toNat)]?).getD (s.enc.buf.read a)
      else s.enc.buf.read a := by
  obtain ⟨hwf, hin, -⟩ := hinv
  obtain ⟨-, -, hlen, hread⟩ := s.enc.pushAll_spec bytes hwf hin hfit
  rw [encAppend_of_fits off hopen hfit]
  exact ⟨congrArg (fun e => { s with enc := e, resp := .ok }) (s.enc.pushAll_eq bytes), hlen, hread⟩

/-- Settles O30: each append is `encAppend` over its bytes, which fails as a whole or stores them all. -/
theorem encoderAppends : Obligations.EncoderAppends := by
  intro s w i off bytes
  refine ⟨?add8, ?add16, ?add32, fun happend => ?_⟩
  case add8 => exact decode_of_exactRow (build := fun w => .encAdd8 (field w 0 8)) rfl rfl rfl
  case add16 => exact decode_of_exactRow (build := fun w => .encAdd16 (field w 0 16)) rfl rfl rfl
  case add32 => exact decode_of_exactRow (build := fun w => .encAdd32 w) rfl rfl rfl
  obtain ⟨f, rfl, rfl, rfl⟩ := exists_payload_of_append happend
  rw [exec_add]
  refine ⟨fun hclosed => ?_, fun hopen hfull => ?_, fun hinv hopen hfit => ?_⟩
  · rw [encAppend_of_closed _ _ hclosed]
    rfl
  · rw [encAppend_of_overflow _ hopen hfull]
    rfl
  · exact ⟨_, rfl, encAppend_spec f.addOff hinv hopen hfit⟩

/-! ## FINALIZE -/

theorem exec_encFinalize_of_opened {s : State} (h : s.enc.state = .opened) :
    exec .encFinalize s = .next { s with enc := s.enc.finalize, resp := .ok } :=
  if_neg (not_not.2 h)

theorem exec_encFinalize_of_closed {s : State} (h : s.enc.state ≠ .opened) :
    exec .encFinalize s =
      .next ({ s with enc := { s.enc with seqErr := true } }.raise .write Off.encFinalize .sequence) :=
  if_pos h

theorem Encoder.encFrameLen_of_done {e : Encoder} (h : e.state = .done) : encFrameLen e = 3 + e.len.toNat := by
  rw [encFrameLen, h]

/-- Settles O31: FINALIZE stores the length and the trailer in the frame that is open, and fails outside OPEN. -/
theorem encoderFinalize : Obligations.EncoderFinalize := by
  intro s w
  refine ⟨decode_of_exactRow (build := fun _ => .encFinalize) rfl rfl rfl, fun hinv hopen => ?_,
    exec_encFinalize_of_closed⟩
  obtain ⟨hwf, hin, -⟩ := hinv
  obtain ⟨-, -, hread⟩ := Encoder.finalize_spec hwf hin
  have hlen : encFrameLen s.enc.finalize = s.enc.len.toNat + 3 := by
    rw [Encoder.encFrameLen_of_done s.enc.finalize_state, Encoder.finalize_len, Nat.add_comm]
  exact ⟨_, exec_encFinalize_of_opened hopen, rfl, hlen, hread⟩

/-! ## ENC_CTRL -/

theorem exec_encCtrl_keep (clrErr : Bool) (s : State) :
    exec (.encCtrl clrErr false) s = .next { s with
      resp := .ok,
      enc := { s.enc with overflow := s.enc.overflow && !clrErr, seqErr := s.enc.seqErr && !clrErr } } := by
  cases clrErr <;> simp [exec, execEncCtrl, Encoder.clearErrors, State.ok]

theorem exec_encCtrl_abort (clrErr : Bool) (s : State) :
    exec (.encCtrl clrErr true) s = .next { s with
      resp := .ok,
      enc := { s.enc with
        overflow := s.enc.overflow && !clrErr, seqErr := s.enc.seqErr && !clrErr,
        state := .idle, len := 0#8, crc := 0x00#8, buf := Memory.zeros } } := by
  cases clrErr <;> simp [exec, execEncCtrl, Encoder.clearErrors, Encoder.abort, State.ok]

/-- Settles O32: without ABORT only the sticky bits can change, and with it the buffer is the zero buffer. -/
theorem encoderControl : Obligations.EncoderControl := fun s _ clrErr =>
  ⟨decode_of_exactRow (build := fun w => .encCtrl (ctrlBit w 0) (ctrlBit w 1)) rfl rfl rfl,
    exec_encCtrl_keep clrErr s, _, exec_encCtrl_abort clrErr s, rfl, Memory.read_nil⟩

/-! ## The status reads -/

theorem exec_encStatus (s : State) : exec .encStatus s = .next { s with resp := .rdata (encStatusWord s.enc) } := rfl

theorem exec_encFramelen (s : State) :
    exec .encFramelen s = .next { s with resp := .rdata (BitVec.ofNat 32 (encFrameLen s.enc)) } := rfl

/-- The fields of ENC_STATUS (10_state.md R35), from the number that the word stands for. -/
theorem encStatusWord_fields (e : Encoder) :
    (encStatusWord e).extractLsb' 0 2 = encStateCode e.state ∧
    (encStatusWord e).getLsbD 2 = e.overflow ∧ (encStatusWord e).getLsbD 3 = e.seqErr ∧
    (encStatusWord e).extractLsb' 4 4 = 0#4 ∧ (encStatusWord e).extractLsb' 8 8 = e.len ∧
    (encStatusWord e).extractLsb' 16 8 = e.crc ∧ (encStatusWord e).extractLsb' 24 8 = 0#8 := by
  have hcode := (encStateCode e.state).isLt
  have hoverflow := toNat_le_one e.overflow
  have hseq := toNat_le_one e.seqErr
  have hlen := e.len.isLt
  have hcrc := e.crc.isLt
  refine ⟨field_eq ?_, bit_eq ?_, bit_eq ?_, field_eq ?reserved, field_eq ?_, field_eq ?_, field_eq ?high⟩
  case reserved | high =>
    rw [encStatusWord_toNat, BitVec.toNat_ofNat]
    omega
  all_goals
    rw [encStatusWord_toNat]
    omega

/-- A frame is at most 258 bytes long, so its length fits the word read. -/
theorem toNat_encFrameLen (e : Encoder) : (BitVec.ofNat 32 (encFrameLen e)).toNat = encFrameLen e := by
  have hlen := e.len.isLt
  have hlt : encFrameLen e < 2 ^ 32 := by
    unfold encFrameLen
    split <;> omega
  rw [BitVec.toNat_ofNat, Nat.mod_eq_of_lt hlt]

/-- Settles O33: ENC_STATUS field by field, and a frame length that fits the word. -/
theorem encoderStatusReads : Obligations.EncoderStatusReads := fun s _ =>
  ⟨decode_of_exactRow (build := fun _ => .encStatus) rfl rfl rfl,
    decode_of_exactRow (build := fun _ => .encFramelen) rfl rfl rfl,
    ⟨_, exec_encStatus s, encStatusWord_fields s.enc⟩,
    ⟨_, exec_encFramelen s, toNat_encFrameLen s.enc⟩⟩

/-! ## The frame window -/

theorem exec_encFrame (k : Nat) (s : State) :
    exec (.encFrame k) s = .next { s with resp := .rdata (windowWord s.enc.windowByte k) } := rfl

theorem frameRow_mem_opTable : frameRow ∈ opTable :=
  List.mem_of_getElem? (show opTable[(Instr.encFrame 0).ctorIdx]? = some frameRow from rfl)

/-- An aligned read in the ENC_FRAME window is the read of the word that stands there. -/
theorem decode_of_frameWindow {off : Offset} (w : Word) (haligned : off.toNat % 4 = 0) (hlo : 0x400 ≤ off.toNat)
    (hhi : off.toNat ≤ 0x7FC) : decode ⟨.read, off, 4, w⟩ = .ok (.encFrame ((off.toNat - 0x400) / 4)) := by
  have hacc : frameRow.accepts (Access.word ⟨.read, off, 4, w⟩) = true := by
    rw [accepts_of_windowMask rfl, word_toNat_of_read]
    show _ = 0x400
    omega
  have hindex : wordIndex off = (off.toNat - 0x400) / 4 := by
    rw [wordIndex_eq]
    omega
  rw [decode_of_row rfl haligned frameRow_mem_opTable hacc, ← hindex]
  rfl

/-- Settles O34: the word read is the window's word, byte by byte. -/
theorem frameWindowReads : Obligations.FrameWindowReads := fun s w _ k =>
  ⟨decode_of_frameWindow w, _, exec_encFrame k s, windowWord_byte s.enc.windowByte k⟩

/-! ## The writers of the frame buffer -/

/-- Settles O35: an operation of another unit leaves the encoder, and of the encoder's own the reads and ENC.CTRL
without ABORT are left. -/
theorem frameBufferWriters : Obligations.FrameBufferWriters := by
  intro i s t hexec hother a
  cases i
  case encBegin | encAdd8 | encAdd16 | encAdd32 | encFinalize => exact hother.elim
  case encCtrl clrErr abort =>
    obtain rfl : abort = false := hother
    rw [exec_encCtrl_keep, Host.Outcome.next.injEq] at hexec
    rw [← hexec]
  case encStatus | encFramelen | encFrame =>
    injection hexec with hexec
    rw [← hexec]
    rfl
  case sysCtrl softReset clrErr =>
    obtain rfl : softReset = false := hother
    rw [(exec_changesOnly hexec nofun).enc_eq nofun]
  -- What is left is of another unit, and no soft reset.
  all_goals rw [(exec_changesOnly hexec nofun).enc_eq nofun]

end Sys2Proof.Machine
end

section
/-!
PROOFS. The frame that BEGIN, the appends and FINALIZE build (41_encoder.md R130 (a), (b); 30_encoding.md R84). The
encoder's invariant says all of a finished frame but its body, so the one thing to follow is the body that grows.
-/

namespace Sys2Proof.Machine

/-! ## The body -/

/-- The body bytes appended so far, `enc_buf[2 .. 1 + enc_len]` (10_state.md R29). -/
def Encoder.body (e : Encoder) : List Byte := e.buf.slice 2 e.len.toNat

theorem Encoder.length_body (e : Encoder) : e.body.length = e.len.toNat := Memory.slice_length _ _ _

theorem Encoder.body_begin (e : Encoder) (target command : Byte) :
    (e.begin target command).body = [target, command] := by
  show [(e.begin target command).buf.read 2, (e.begin target command).buf.read 3] = _
  rw [begin_buf_read, begin_buf_read]
  rfl

/-- Appended bytes follow the body in order. -/
theorem Encoder.body_pushAll {e : Encoder} (bytes : List Byte) (hinv : e.Inv)
    (hfit : e.len.toNat + bytes.length ≤ Config.maxLen) : (e.pushAll bytes).body = e.body ++ bytes := by
  obtain ⟨hwf, hin, -⟩ := hinv
  obtain ⟨-, -, hlen, hread⟩ := e.pushAll_spec bytes hwf hin hfit
  refine List.ext_getElem ?_ fun j hj hj' => ?_
  · rw [List.length_append, length_body, length_body, hlen]
  · simp only [body, Memory.slice_getElem, List.getElem_append, Memory.slice_length, hread]
    rw [length_body, hlen] at hj
    by_cases hold : j < e.len.toNat
    · rw [dif_pos hold, if_neg (by omega)]
    · have hindex : 2 + j - (2 + e.len.toNat) = j - e.len.toNat := by omega
      rw [dif_neg hold, if_pos (by omega), hindex, List.getElem?_eq_getElem (by omega)]
      rfl

/-- FINALIZE writes around the body. -/
theorem Encoder.body_finalize {e : Encoder} (hinv : e.Inv) : e.finalize.body = e.body := by
  obtain ⟨hwf, hin, -⟩ := hinv
  obtain ⟨-, -, hread⟩ := finalize_spec hwf hin
  exact Memory.slice_congr 2 _ fun a hlo hhi => by
    rw [finalize_len] at hhi
    rw [hread, if_neg (by omega), if_neg (by omega)]

/-! ## A finished frame -/

/-- The invariant of a finished frame. -/
theorem Encoder.Inv.of_done {e : Encoder} (hinv : e.Inv) (hdone : e.state = .done) :
    e.buf.read 0 = Config.sentinel ∧ e.buf.read 1 = e.len ∧ e.buf.read (2 + e.len.toNat) = crc8 e.body ∧
      ∀ a, 3 + e.len.toNat ≤ a → e.buf.read a = 0#8 := by
  obtain ⟨-, -, hframe⟩ := hinv
  simp only [hdone] at hframe
  obtain ⟨-, hsentinel, hlength, htrailer, hcrc, hzero⟩ := hframe
  exact ⟨hsentinel, hlength, htrailer.trans hcrc, hzero⟩

/-- Behind the length byte a finished frame holds the body and its CRC. -/
theorem Encoder.slice_two_of_done {e : Encoder} (hinv : e.Inv) (hdone : e.state = .done) :
    e.buf.slice 2 (encFrameLen e - 2) = e.body ++ [crc8 e.body] := by
  obtain ⟨-, -, htrailer, -⟩ := hinv.of_done hdone
  have hlen : encFrameLen e - 2 = e.len.toNat + 1 := by
    rw [encFrameLen_of_done hdone]
    omega
  rw [hlen, Memory.slice_succ, htrailer]
  rfl

/-- A finished frame: sentinel, length, body and CRC. -/
theorem Encoder.slice_of_done {e : Encoder} (hinv : e.Inv) (hdone : e.state = .done) :
    e.buf.slice 0 (encFrameLen e) = [Config.sentinel, e.len] ++ e.body ++ [crc8 e.body] := by
  have hsplit : encFrameLen e = encFrameLen e - 2 + 1 + 1 := by
    rw [encFrameLen_of_done hdone]
    omega
  obtain ⟨hsentinel, hlength, -, -⟩ := hinv.of_done hdone
  calc e.buf.slice 0 (encFrameLen e)
      = e.buf.slice 0 (encFrameLen e - 2 + 1 + 1) := by rw [← hsplit]
    _ = e.buf.read 0 :: e.buf.read 1 :: e.buf.slice 2 (encFrameLen e - 2) := rfl
    _ = [Config.sentinel, e.len] ++ e.body ++ [crc8 e.body] := by
      rw [hsentinel, hlength, slice_two_of_done hinv hdone]
      rfl

/-- Past the end of a finished frame the buffer reads 0x00. -/
theorem Encoder.read_of_done {e : Encoder} (hinv : e.Inv) (hdone : e.state = .done) {a : Nat}
    (ha : encFrameLen e ≤ a) : e.buf.read a = 0#8 := by
  obtain ⟨-, -, -, hzero⟩ := hinv.of_done hdone
  rw [encFrameLen_of_done hdone] at ha
  exact hzero a ha

/-! ## The frame of a payload -/

/-- The encoder after BEGIN, the appends of some bytes, and FINALIZE. -/
def Encoder.built (e : Encoder) (target command : Byte) (bytes : List Byte) : Encoder :=
  ((e.begin target command).pushAll bytes).finalize

theorem Encoder.begin_len_add {e : Encoder} {target command : Byte} {bytes : List Byte} (hfit : bytes.length ≤ 253) :
    (e.begin target command).len.toNat + bytes.length ≤ Config.maxLen := by
  show 2 + bytes.length ≤ 255
  omega

theorem Encoder.pushAll_begin_inv {e : Encoder} {target command : Byte} {bytes : List Byte}
    (hfit : bytes.length ≤ 253) : ((e.begin target command).pushAll bytes).Inv :=
  pushAll_inv bytes (e.begin_inv target command) rfl (begin_len_add hfit)

theorem Encoder.pushAll_state (e : Encoder) (bytes : List Byte) : (e.pushAll bytes).state = e.state :=
  (e.pushAll_fields bytes).1

theorem Encoder.built_inv {e : Encoder} {target command : Byte} {bytes : List Byte} (hfit : bytes.length ≤ 253) :
    (e.built target command bytes).Inv :=
  finalize_inv (pushAll_begin_inv hfit) (pushAll_state _ bytes)

theorem Encoder.built_body {e : Encoder} {target command : Byte} {bytes : List Byte} (hfit : bytes.length ≤ 253) :
    (e.built target command bytes).body = [target, command] ++ bytes := by
  rw [built, body_finalize (pushAll_begin_inv hfit),
    body_pushAll bytes (e.begin_inv target command) (begin_len_add hfit), body_begin]

/-- Everything of the built frame that the wire and the host can see. -/
theorem Encoder.built_spec (e : Encoder) (target command : Byte) {bytes : List Byte} (hfit : bytes.length ≤ 253) :
    let b := e.built target command bytes
    b.state = .done ∧ b.overflow = e.overflow ∧ b.seqErr = e.seqErr ∧
      encFrameLen b = 5 + bytes.length ∧
      b.buf.slice 0 (encFrameLen b) =
        [0xD5#8, BitVec.ofNat 8 (2 + bytes.length), target, command] ++ bytes ++ [crc8 ([target, command] ++ bytes)] ∧
      crc8 (b.buf.slice 2 (encFrameLen b - 2)) = 0x00#8 ∧
      ∀ a, encFrameLen b ≤ a → b.buf.read a = 0x00#8 := by
  intro b
  have hinv : b.Inv := built_inv hfit
  have hbody : b.body = [target, command] ++ bytes := built_body hfit
  have hlen : b.len.toNat = 2 + bytes.length := by
    rw [← length_body, hbody, List.length_append]
    rfl
  obtain ⟨-, hoverflow, hseq, -⟩ := (e.begin target command).pushAll_fields bytes
  refine ⟨rfl, hoverflow, hseq, ?_, ?_, ?_, fun a => read_of_done hinv rfl⟩
  · rw [encFrameLen_of_done rfl, hlen]
    omega
  · rw [slice_of_done hinv rfl, hbody, ← hlen, BitVec.ofNat_toNat, BitVec.setWidth_eq]
    rfl
  · rw [slice_two_of_done hinv rfl, crc8_concat_self]

/-! ## The accesses that build it -/

theorem payloadBytes_cons (f : Payload) (fields : List Payload) :
    payloadBytes (f :: fields) = f.bytes ++ payloadBytes fields := rfl

theorem decode_encode_add (f : Payload) : decode (encode f.add) = .ok f.add := by
  cases f <;> exact decodeEncodeWellFormed _ rfl

/-- The appends of fields that fit, one after the other, append the payload's bytes. -/
theorem perform_adds (rest : List Instr) (s : State) (fields : List Payload) : ∀ {e : Encoder}, e.Inv →
    e.state = .opened → e.len.toNat + (payloadBytes fields).length ≤ Config.maxLen →
    perform (fields.map Payload.add ++ rest) { s with enc := e, resp := .ok } =
      perform rest { s with enc := e.pushAll (payloadBytes fields), resp := .ok } := by
  induction fields with
  | nil => exact fun _ _ _ => rfl
  | cons f fields ih =>
    intro e hinv hopen hfit
    rw [payloadBytes_cons, List.length_append] at hfit
    have hfirst : e.len.toNat + f.bytes.length ≤ Config.maxLen := by omega
    have happend : exec f.add { s with enc := e, resp := .ok } =
        .next { s with enc := e.pushAll f.bytes, resp := .ok } := by
      rw [exec_add, encAppend_of_fits f.addOff hopen hfirst]
      rfl
    have hinv' := Encoder.pushAll_inv f.bytes hinv hopen hfirst
    obtain ⟨hwf, hin, -⟩ := hinv
    obtain ⟨-, -, hlen, -⟩ := e.pushAll_spec f.bytes hwf hin hfirst
    rw [List.map_cons, List.cons_append, perform_cons _ (decode_encode_add f) happend,
      ih hinv' ((e.pushAll_state f.bytes).trans hopen) (by omega), ← Encoder.pushAll_append, payloadBytes_cons]

/-- The operations of a frame leave the built encoder, and everything else as it was. -/
theorem perform_buildFrame (s : State) (target command : Byte) {fields : List Payload}
    (hfit : (payloadBytes fields).length ≤ 253) :
    perform (buildFrame target command fields) s =
      .next { s with resp := .ok, pending := [], enc := s.enc.built target command (payloadBytes fields) } := by
  have hbegin := decodeEncodeWellFormed (.encBegin target command) rfl
  have hfinalize := decodeEncodeWellFormed .encFinalize rfl
  have hopen := (s.enc.begin target command).pushAll_state (payloadBytes fields)
  rw [buildFrame, perform_cons _ hbegin (exec_encBegin target command s),
    perform_adds _ s fields (s.enc.begin_inv target command) rfl (Encoder.begin_len_add hfit),
    perform_cons _ hfinalize (exec_encFinalize_of_opened hopen), perform_nil]
  rfl

/-- Settles O36: the accesses leave the built encoder, whose buffer holds the frame. -/
theorem builtFrameIsTheWireFrame : Obligations.BuiltFrameIsTheWireFrame := fun s target command _ hfit =>
  ⟨_, perform_buildFrame s target command hfit, rfl, s.enc.built_spec target command hfit⟩

end Sys2Proof.Machine
end

section
/-!
PROOFS. The CRC tells two sequences apart that differ in one byte (42_decoder.md R160 (e)): a shift loses nothing, since
the bit that it takes out comes back as the top bit of the polynomial.
-/

namespace Sys2Proof.Machine

/-- The polynomial's top bit is set, so a shift's top bit is the bit that was taken out. -/
theorem crc8Shift_top (c : Byte) : (crc8Shift c).getLsbD 7 = c.getLsbD 0 := by
  rw [crc8Shift]
  split
  case isTrue hout => rw [hout, BitVec.getLsbD_xor, BitVec.getLsbD_ushiftRight, BitVec.getLsbD_of_ge c _ le_rfl]; rfl
  case isFalse hout =>
    rw [Bool.eq_false_of_not_eq_true hout, BitVec.getLsbD_ushiftRight, BitVec.getLsbD_of_ge c _ le_rfl]

/-- The seven other bits, from the shift's result. -/
theorem ushiftRight_eq_of_crc8Shift (c : Byte) :
    c >>> 1 = if (crc8Shift c).getLsbD 7 then crc8Shift c ^^^ Config.crcPoly else crc8Shift c := by
  rw [crc8Shift_top, crc8Shift]
  split
  · rw [BitVec.xor_assoc, BitVec.xor_self, BitVec.xor_zero]
  · rfl

theorem crc8Shift_injective : Function.Injective crc8Shift := by
  intro c c' heq
  have hlow : c.getLsbD 0 = c'.getLsbD 0 := by rw [← crc8Shift_top, heq, crc8Shift_top]
  have hhigh : c >>> 1 = c' >>> 1 := by rw [ushiftRight_eq_of_crc8Shift, heq, ← ushiftRight_eq_of_crc8Shift]
  refine BitVec.eq_of_getLsbD_eq fun i _ => ?_
  cases i with
  | zero => exact hlow
  | succ i =>
    have hbit := congrArg (BitVec.getLsbD · i) hhigh
    simpa only [BitVec.getLsbD_ushiftRight, Nat.add_comm 1 i] using hbit

theorem crc8Shifts_injective (n : Nat) : Function.Injective (crc8Shifts n) := by
  rw [funext (crc8Shifts_eq_iterate n)]
  exact crc8Shift_injective.iterate n

/-- Distinct bytes take one accumulator to distinct ones. -/
theorem crc8Update_right_injective (c : Byte) : Function.Injective (crc8Update c) := fun _ _ heq =>
  (BitVec.xor_right_inj c).1 (crc8Shifts_injective 8 heq)

/-- One byte keeps distinct accumulators apart. -/
theorem crc8Update_left_injective (b : Byte) : Function.Injective (crc8Update · b) := fun _ _ heq =>
  (BitVec.xor_left_inj b).1 (crc8Shifts_injective 8 heq)

/-- Accumulators once apart stay apart over any further bytes. -/
theorem crc8From_injective (bytes : List Byte) : Function.Injective (crc8From · bytes) := by
  induction bytes with
  | nil => exact fun _ _ heq => heq
  | cons b bytes ih => exact fun _ _ heq => crc8Update_left_injective b (ih heq)

/-- Settles O28: the changed byte sets the accumulators apart, and the bytes behind it keep them so. -/
theorem crcDetectsOneChangedByte : Obligations.CrcDetectsOneChangedByte := by
  intro u v b b' hne heq
  rw [crc8_append, crc8_append, crc8From_cons, crc8From_cons] at heq
  exact hne (crc8Update_right_injective _ (crc8From_injective v heq))

end Sys2Proof.Machine
end

section
/-!
PROOFS. The packet decoder, operation by operation (42_decoder.md R150 to R158).
-/

namespace Sys2Proof.Machine

/-! ## DEC.PUSH -/

theorem exec_decPush (b : Byte) (s : State) : exec (.decPush b) s = .next (decPushByte b s).ok := rfl

/-- The hunt for a sentinel changes the phase and nothing else. -/
theorem Decoder.stepSentinel_eq {d : Decoder} (b : Byte) (h : d.phase = .awaitSentinel) :
    d.stepSentinel b = { d with phase := if b = 0xD5#8 then .awaitLength else .awaitSentinel } := by
  rw [stepSentinel, Config.sentinel, ← h]
  split <;> rfl

/-- The mismatch count saturates. -/
theorem saturating_succ (n : BitVec 16) :
    (if n = 0xFFFF#16 then n else n + 1) = BitVec.ofNat 16 (min (n.toNat + 1) 0xFFFF) := by
  have hlt := n.isLt
  split
  case isTrue hfull => rw [hfull]; rfl
  case isFalse hroom =>
    have hne : n.toNat ≠ 0xFFFF := fun h => hroom (BitVec.eq_of_toNat_eq h)
    rw [Nat.min_eq_left (by omega), BitVec.ofNat_add, BitVec.ofNat_toNat, BitVec.setWidth_eq]
    rfl

theorem Decoder.mismatch_eq (d : Decoder) (b : Byte) :
    d.mismatch b = { d with
      phase := .awaitSentinel, len := 0#8, count := 0#8, crc := 0x00#8, body := [],
      crcErr := true, rxCrc := b, calcCrc := d.crc,
      mismatchCnt := BitVec.ofNat 16 (min (d.mismatchCnt.toNat + 1) 0xFFFF) } := by
  rw [mismatch, saturating_succ]
  rfl

/-- Settles O37, phase by phase. -/
theorem decoderPush : Obligations.DecoderPush := by
  intro s w b
  refine ⟨decode_of_exactRow (build := fun w => .decPush (field w 0 8)) rfl rfl rfl, fun hphase => ?sentinel,
    fun hphase => ?complete, fun hphase => ?length, fun hphase hinv => ?payload, fun hphase hb => ?matching,
    fun hphase hb => ?mismatch⟩
  all_goals rw [exec_decPush]
  case sentinel =>
    rw [decPushByte_of_awaitSentinel b hphase, Decoder.stepSentinel_eq b hphase]
    rfl
  case complete =>
    rw [decPushByte_of_complete b hphase, Decoder.stepSentinel_eq b s.dec.restart_phase]
    rfl
  case length =>
    rw [decPushByte_of_awaitLength b hphase]
    rfl
  case payload =>
    obtain ⟨hwf, hin, hframe, -⟩ := hinv
    rw [Decoder.FrameInv, hphase] at hframe
    obtain ⟨hlt, -⟩ := hframe
    obtain ⟨-, -, hcount, hphase', hread⟩ := Decoder.stepPayload_spec b hwf hin hlt
    rw [decPushByte_of_awaitPayload b hphase]
    refine ⟨_, rfl, ?_, hcount, hread⟩
    rw [← hphase']
    rfl
  case matching =>
    rw [decPushByte_of_match hphase hb]
    rfl
  case mismatch =>
    rw [decPushByte_of_mismatch hphase hb, Decoder.mismatch_eq]
    rfl

/-! ## DEC_CTRL -/

theorem exec_decCtrl_keep (clrErr : Bool) (s : State) :
    exec (.decCtrl false clrErr) s =
      .next { s with resp := .ok, dec := if clrErr then s.dec.clearErrors else s.dec } := rfl

theorem exec_decCtrl_reset (clrErr : Bool) (s : State) :
    exec (.decCtrl true clrErr) s = .next { s with
      resp := .ok,
      dec := { s.dec with
        phase := .awaitSentinel, len := 0#8, count := 0#8, crc := 0x00#8, body := Memory.zeros,
        crcErr := s.dec.crcErr && !clrErr,
        rxCrc := if clrErr then 0x00#8 else s.dec.rxCrc,
        calcCrc := if clrErr then 0x00#8 else s.dec.calcCrc,
        mismatchCnt := if clrErr then 0#16 else s.dec.mismatchCnt } } := by
  cases clrErr <;> simp [exec, execDecCtrl, Decoder.clearErrors, Decoder.restart, State.ok]

/-- Settles O39: RESET leaves the zero body, and the error record goes with CLR_ERR only. -/
theorem decoderControl : Obligations.DecoderControl := fun s _ clrErr =>
  ⟨decode_of_exactRow (build := fun w => .decCtrl (ctrlBit w 0) (ctrlBit w 1)) rfl rfl rfl,
    exec_decCtrl_keep clrErr s, _, exec_decCtrl_reset clrErr s, rfl, Memory.read_nil⟩

/-! ## The status reads -/

theorem exec_decStatus (s : State) : exec .decStatus s = .next { s with resp := .rdata (decStatusWord s.dec) } := rfl

theorem exec_decErrinfo (s : State) :
    exec .decErrinfo s = .next { s with resp := .rdata (decErrinfoWord s.dec) } := rfl

/-- The fields of DEC_STATUS (10_state.md R42), from the number that the word stands for. -/
theorem decStatusWord_fields (d : Decoder) :
    (decStatusWord d).extractLsb' 0 3 = decPhaseCode d.phase ∧
    (decStatusWord d).getLsbD 3 = false ∧ (decStatusWord d).getLsbD 4 = d.crcErr ∧
    (decStatusWord d).extractLsb' 5 3 = 0#3 ∧ (decStatusWord d).extractLsb' 8 8 = d.len ∧
    (decStatusWord d).extractLsb' 16 8 = d.count ∧ (decStatusWord d).extractLsb' 24 8 = d.crc := by
  have hcode := (decPhaseCode d.phase).isLt
  have herr := toNat_le_one d.crcErr
  have hlen := d.len.isLt
  have hcount := d.count.isLt
  have hcrc := d.crc.isLt
  refine ⟨field_eq ?_, bit_eq ?low, bit_eq ?_, field_eq ?reserved, field_eq ?_, field_eq ?_, field_eq ?_⟩
  case low =>
    rw [decStatusWord_toNat, Bool.toNat_false]
    omega
  case reserved =>
    rw [decStatusWord_toNat, BitVec.toNat_ofNat]
    omega
  all_goals
    rw [decStatusWord_toNat]
    omega

/-- The fields of DEC_ERRINFO (10_state.md R43). -/
theorem decErrinfoWord_fields (d : Decoder) :
    (decErrinfoWord d).extractLsb' 0 8 = d.rxCrc ∧ (decErrinfoWord d).extractLsb' 8 8 = d.calcCrc ∧
    (decErrinfoWord d).extractLsb' 16 16 = d.mismatchCnt := by
  have hrx := d.rxCrc.isLt
  have hcalc := d.calcCrc.isLt
  have hcnt := d.mismatchCnt.isLt
  refine ⟨field_eq ?_, field_eq ?_, field_eq ?_⟩
  all_goals
    rw [decErrinfoWord_toNat]
    omega

/-- Settles O40: the two words field by field. -/
theorem decoderStatusReads : Obligations.DecoderStatusReads := fun s _ =>
  ⟨decode_of_exactRow (build := fun _ => .decStatus) rfl rfl rfl,
    decode_of_exactRow (build := fun _ => .decErrinfo) rfl rfl rfl,
    ⟨_, exec_decStatus s, decStatusWord_fields s.dec⟩,
    ⟨_, exec_decErrinfo s, decErrinfoWord_fields s.dec⟩⟩

/-! ## The body window -/

theorem exec_decBody (k : Nat) (s : State) :
    exec (.decBody k) s = .next { s with resp := .rdata (windowWord s.dec.windowByte k) } := rfl

theorem Decoder.windowByte_eq (d : Decoder) (i : Nat) :
    d.windowByte i = if d.phase = .complete ∧ i < d.len.toNat then d.body.read i else 0x00#8 := by
  simp only [windowByte, Bool.and_eq_true, ready_iff, decide_eq_true_iff]

theorem bodyRow_mem_opTable : bodyRow ∈ opTable :=
  List.mem_of_getElem? (show opTable[(Instr.decBody 0).ctorIdx]? = some bodyRow from rfl)

/-- An aligned read in the DEC_BODY window is the read of the word that stands there. -/
theorem decode_of_bodyWindow {off : Offset} (w : Word) (haligned : off.toNat % 4 = 0) (hlo : 0x800 ≤ off.toNat)
    (hhi : off.toNat ≤ 0xBFC) : decode ⟨.read, off, 4, w⟩ = .ok (.decBody ((off.toNat - 0x800) / 4)) := by
  have hword : (Access.word ⟨.read, off, 4, w⟩).toNat = off.toNat := word_toNat_of_read off 4 w
  have hindex : wordIndex off = (off.toNat - 0x800) / 4 := by
    rw [wordIndex_eq]
    omega
  refine (decode_eq_ok_iff _ _).2 ⟨rfl, haligned, bodyRow, bodyRow_mem_opTable, ?_, congrArg Instr.decBody hindex⟩
  rw [accepts_of_windowMask rfl, hword]
  exact show _ = 0x800 by omega

/-- Settles O41: the word read is the window's word, byte by byte. -/
theorem bodyWindowReads : Obligations.BodyWindowReads := fun s w _ k =>
  ⟨decode_of_bodyWindow w, _, exec_decBody k s, fun j hj =>
    (windowWord_byte s.dec.windowByte k j hj).trans (s.dec.windowByte_eq (4 * k + j))⟩

end Sys2Proof.Machine
end

section
/-!
PROOFS. Pushed sequences of bytes (42_decoder.md R160): noise, the frame of a body, and a frame with a wrong trailer. A
push is a function of the state, so a feed is a fold; behind a frame's header the one thing to follow is the body that
is collected.
-/

namespace Sys2Proof.Machine

/-! ## A feed is a fold -/

/-- The state after DEC.PUSH of each byte, in order. -/
def pushBytes (bytes : List Byte) (s : State) : State := bytes.foldl (fun s b => (decPushByte b s).ok) s

theorem pushBytes_cons (b : Byte) (bytes : List Byte) (s : State) :
    pushBytes (b :: bytes) s = pushBytes bytes (decPushByte b s).ok := rfl

theorem pushBytes_singleton (b : Byte) (s : State) : pushBytes [b] s = (decPushByte b s).ok := rfl

theorem pushBytes_append (u v : List Byte) (s : State) : pushBytes (u ++ v) s = pushBytes v (pushBytes u s) :=
  List.foldl_append

/-- The accesses of a feed do what the fold does, and none of them is left. -/
theorem perform_feed (bytes : List Byte) (s : State) :
    perform (feed bytes) s = .next { pushBytes bytes s with pending := [] } := by
  induction bytes generalizing s with
  | nil => rfl
  | cons b bytes ih =>
    have hdecode := decodeEncodeWellFormed (.decPush b) rfl
    exact (perform_cons (feed bytes) hdecode (exec_decPush b s)).trans (ih _)

/-! ## Noise -/

/-- A byte other than the sentinel, pushed in AwaitSentinel, is discarded (R151). -/
theorem decPushByte_of_noise {s : State} {b : Byte} (hphase : s.dec.phase = .awaitSentinel) (hb : b ≠ 0xD5#8) :
    decPushByte b s = s := by
  rw [decPushByte_of_awaitSentinel b hphase, Decoder.stepSentinel_eq b hphase, if_neg hb, ← hphase]

theorem pushBytes_of_noise {noise : List Byte} (hnoise : ∀ b ∈ noise, b ≠ 0xD5#8) :
    ∀ {s : State}, s.dec.phase = .awaitSentinel →
      pushBytes noise s = { s with resp := (pushBytes noise s).resp } := by
  induction noise with
  | nil => exact fun _ => rfl
  | cons b noise ih =>
    intro s hphase
    obtain ⟨hb, htail⟩ := List.forall_mem_cons.1 hnoise
    rw [pushBytes_cons, decPushByte_of_noise hphase hb]
    exact ih htail (s := s.ok) hphase

/-- Settles O38: no byte of the noise is taken. -/
theorem decoderIgnoresNoise : Obligations.DecoderIgnoresNoise := by
  intro s noise hphase hnoise
  refine ⟨_, perform_feed noise s, ?_⟩
  rw [pushBytes_of_noise hnoise hphase]

/-! ## The header -/

/-- The decoder takes a sentinel as the start of a frame: it hunts for one, or a body stands. -/
def Decoder.AtFrameStart (d : Decoder) : Prop := d.phase = .awaitSentinel ∨ d.phase = .complete

/-- A sentinel at the start of a frame leads to AwaitLength; of the decoder, only what the length byte overwrites may
differ by the phase that it was pushed in. -/
theorem pushBytes_sentinel {s : State} (hstart : s.dec.AtFrameStart) :
    ∃ d : Decoder, pushBytes [Config.sentinel] s = { s with dec := d, resp := .ok } ∧ d.phase = .awaitLength ∧
      ∀ len, d.stepLength len = s.dec.stepLength len := by
  obtain hphase | hphase := hstart
  · refine ⟨{ s.dec with phase := .awaitLength }, ?_, rfl, fun _ => rfl⟩
    rw [pushBytes_singleton, decPushByte_of_awaitSentinel _ hphase, Decoder.stepSentinel_eq _ hphase]
    rfl
  · refine ⟨{ s.dec.restart with phase := .awaitLength }, ?_, rfl, fun _ => rfl⟩
    rw [pushBytes_singleton, decPushByte_of_complete _ hphase, Decoder.stepSentinel_eq _ s.dec.restart_phase]
    rfl

/-- Sentinel and length byte. -/
theorem pushBytes_header {s : State} (len : Byte) (hstart : s.dec.AtFrameStart) :
    pushBytes [Config.sentinel, len] s = { s with dec := s.dec.stepLength len, resp := .ok } := by
  obtain ⟨d, hpush, hphase, hlength⟩ := pushBytes_sentinel hstart
  have hsplit : pushBytes [Config.sentinel, len] s = pushBytes [len] (pushBytes [Config.sentinel] s) := rfl
  rw [hsplit, hpush, pushBytes_singleton, decPushByte_of_awaitLength len hphase, ← hlength]
  rfl

/-! ## The body -/

/-- The decoder `d` stands behind a header with length byte `len`, pushed in a decoder `d₀`, and has collected `bytes` of
the body; the mismatch record is that of `d₀`. -/
structure Decoder.Collected (d₀ : Decoder) (len : Byte) (bytes : List Byte) (d : Decoder) : Prop where
  canonical : d.body.wf = true
  within : Memory.within Config.bodySize d.body = true
  len_eq : d.len = len
  count_eq : d.count.toNat = bytes.length
  crc_eq : d.crc = crc8 bytes
  body_eq : d.body.slice 0 bytes.length = bytes
  phase_eq : d.phase = if bytes.length = len.toNat then .awaitCrc else .awaitPayload
  frame : d = { d₀ with phase := d.phase, len := d.len, count := d.count, crc := d.crc, body := d.body }

theorem Decoder.stepLength_collected (d : Decoder) (len : Byte) : Collected d len [] (d.stepLength len) where
  canonical := rfl
  within := rfl
  len_eq := rfl
  count_eq := rfl
  crc_eq := rfl
  body_eq := rfl
  phase_eq := if_congr (by rw [eq_comm, ← BitVec.toNat_inj]; rfl) rfl rfl
  frame := rfl

theorem Decoder.Collected.phase_ne_complete {d₀ d : Decoder} {len : Byte} {bytes : List Byte}
    (h : Collected d₀ len bytes d) : d.phase ≠ .complete := by
  rw [h.phase_eq]
  split <;> decide

theorem Decoder.Collected.mismatchCnt_eq {d₀ d : Decoder} {len : Byte} {bytes : List Byte}
    (h : Collected d₀ len bytes d) : d.mismatchCnt = d₀.mismatchCnt :=
  (congrArg Decoder.mismatchCnt h.frame :)

theorem Decoder.Collected.crcErr_eq {d₀ d : Decoder} {len : Byte} {bytes : List Byte}
    (h : Collected d₀ len bytes d) : d.crcErr = d₀.crcErr :=
  (congrArg Decoder.crcErr h.frame :)

/-- One more byte, while the body is not full. -/
theorem Decoder.Collected.stepPayload {d₀ d : Decoder} {len : Byte} {bytes : List Byte} (b : Byte)
    (h : Collected d₀ len bytes d) (hroom : bytes.length < len.toNat) :
    Collected d₀ len (bytes ++ [b]) (d.stepPayload b) := by
  obtain ⟨hwf, hin, hcount, hphase, hread⟩ :=
    stepPayload_spec b h.canonical h.within (by rw [h.count_eq, h.len_eq]; exact hroom)
  rw [h.count_eq] at hcount hphase hread
  have hlength : (bytes ++ [b]).length = bytes.length + 1 := List.length_append
  have hold : (d.stepPayload b).body.slice 0 bytes.length = bytes :=
    (Memory.slice_congr 0 bytes.length fun i _ hi => by rw [hread, if_neg (by omega)]).trans h.body_eq
  exact {
    canonical := hwf
    within := hin
    len_eq := h.len_eq
    count_eq := by rw [hcount, hlength]
    crc_eq := by rw [crc8_concat, ← h.crc_eq]; rfl
    body_eq := by rw [hlength, Memory.slice_succ, hold, Nat.zero_add, hread, if_pos rfl]
    phase_eq := by rw [hphase, hlength, h.len_eq]
    frame := by rw [h.frame]; rfl }

/-- Body bytes that fit are collected in order. -/
theorem pushBytes_payload (s : State) {d₀ : Decoder} {len : Byte} (bytes : List Byte) :
    ∀ {d : Decoder} {got : List Byte}, Decoder.Collected d₀ len got d → got.length + bytes.length ≤ len.toNat →
      ∃ d', pushBytes bytes { s with dec := d, resp := .ok } = { s with dec := d', resp := .ok } ∧
        Decoder.Collected d₀ len (got ++ bytes) d' := by
  induction bytes with
  | nil => exact fun h _ => ⟨_, rfl, by rwa [List.append_nil]⟩
  | cons b bytes ih =>
    intro d got h hfit
    rw [List.length_cons] at hfit
    have hphase : d.phase = .awaitPayload := by rw [h.phase_eq, if_neg (by omega)]
    have hstep := h.stepPayload b (by omega)
    obtain ⟨d', hpush, h'⟩ := ih hstep (by rw [List.length_append, List.length_singleton]; omega)
    refine ⟨d', ?_, by rwa [List.append_assoc] at h'⟩
    rw [pushBytes_cons, decPushByte_of_awaitPayload b hphase]
    exact hpush

/-- A header and body bytes, at most as many as the header announces. -/
theorem pushBytes_open_frame {s : State} {len : Byte} {bytes : List Byte} (hstart : s.dec.AtFrameStart)
    (hfit : bytes.length ≤ len.toNat) :
    ∃ d, pushBytes ([Config.sentinel, len] ++ bytes) s = { s with dec := d, resp := .ok } ∧
      Decoder.Collected s.dec len bytes d := by
  rw [pushBytes_append, pushBytes_header len hstart]
  exact pushBytes_payload s bytes (s.dec.stepLength_collected len) (by rwa [List.length_nil, Nat.zero_add])

/-! ## The trailer -/

/-- The length byte of a body of at most 255 bytes. -/
theorem toNat_lengthByte {body : List Byte} (hfit : body.length ≤ 255) :
    (BitVec.ofNat 8 body.length).toNat = body.length := by
  rw [BitVec.toNat_ofNat]
  omega

/-- A header and the whole body it announces: the decoder awaits the trailer. -/
theorem pushBytes_header_body {s : State} {body : List Byte} (hstart : s.dec.AtFrameStart)
    (hfit : body.length ≤ 255) :
    ∃ d, pushBytes ([Config.sentinel, BitVec.ofNat 8 body.length] ++ body) s = { s with dec := d, resp := .ok } ∧
      Decoder.Collected s.dec (BitVec.ofNat 8 body.length) body d ∧ d.phase = .awaitCrc := by
  have hlen := toNat_lengthByte hfit
  obtain ⟨d, hpush, h⟩ := pushBytes_open_frame hstart hlen.ge
  exact ⟨d, hpush, h, by rw [h.phase_eq, if_pos hlen.symm]⟩

/-- A frame completes with its body, and the cursor goes behind the code byte (R153). -/
theorem pushBytes_wireFrame {s : State} {body : List Byte} (hstart : s.dec.AtFrameStart) (hfit : body.length ≤ 255) :
    ∃ d, Decoder.Collected s.dec (BitVec.ofNat 8 body.length) body d ∧
      pushBytes (wireFrame body) s = { s with
        dec := { d with phase := .complete }, rd := { s.rd with cursor := 1#8 }, resp := .ok } := by
  obtain ⟨d, hpush, h, hphase⟩ := pushBytes_header_body hstart hfit
  refine ⟨d, h, ?_⟩
  rw [wireFrame, pushBytes_append, hpush, pushBytes_singleton, decPushByte_of_match hphase h.crc_eq.symm]
  rfl

/-- A frame with a wrong trailer is recorded and discarded (R154). -/
theorem pushBytes_wrong_trailer {s : State} {body : List Byte} {trailer : Byte} (hstart : s.dec.AtFrameStart)
    (hfit : body.length ≤ 255) (hwrong : trailer ≠ crc8 body) :
    ∃ d, Decoder.Collected s.dec (BitVec.ofNat 8 body.length) body d ∧
      pushBytes ([Config.sentinel, BitVec.ofNat 8 body.length] ++ body ++ [trailer]) s =
        { s with dec := d.mismatch trailer, resp := .ok } := by
  obtain ⟨d, hpush, h, hphase⟩ := pushBytes_header_body hstart hfit
  refine ⟨d, h, ?_⟩
  rw [pushBytes_append, hpush, pushBytes_singleton, decPushByte_of_mismatch hphase (h.crc_eq ▸ hwrong)]
  rfl

/-! ## Before the last byte -/

/-- A frame cut short ends behind the sentinel, or in the body, which is open or awaits its trailer. -/
theorem pushBytes_take_wireFrame {s : State} {body : List Byte} {n : Nat} (hstart : s.dec.AtFrameStart)
    (hfit : body.length ≤ 255) (hpos : 1 ≤ n) (hcut : n < (wireFrame body).length) :
    (pushBytes ((wireFrame body).take n) s).dec.phase ≠ .complete := by
  have hlen := toNat_lengthByte hfit
  match n with
  | 1 =>
    obtain ⟨d, hpush, hphase, -⟩ := pushBytes_sentinel hstart
    rw [show (wireFrame body).take 1 = [Config.sentinel] from rfl, hpush]
    exact hphase ▸ nofun
  | m + 2 =>
    have hm : m ≤ body.length := by
      simp only [wireFrame, List.length_append, List.length_cons, List.length_nil] at hcut
      omega
    have htake : (wireFrame body).take (m + 2) =
        [Config.sentinel, BitVec.ofNat 8 body.length] ++ body.take m :=
      congrArg ([Config.sentinel, BitVec.ofNat 8 body.length] ++ ·) (List.take_append_of_le_length hm)
    obtain ⟨d, hpush, h⟩ := pushBytes_open_frame (bytes := body.take m) (len := BitVec.ofNat 8 body.length) hstart
      (by rw [List.length_take]; omega)
    rw [htake, hpush]
    exact h.phase_ne_complete

/-! ## Whole frames -/

/-- Settles O42: the frame completes with its last byte. -/
theorem pushedFrameCompletes : Obligations.PushedFrameCompletes := by
  intro s body hfit hstart
  constructor
  · obtain ⟨d, h, hpush⟩ := pushBytes_wireFrame hstart hfit
    have hlen : d.len.toNat = body.length := by rw [h.len_eq, toNat_lengthByte hfit]
    have hcount : d.count = d.len := BitVec.eq_of_toNat_eq (h.count_eq.trans hlen.symm)
    refine ⟨_, perform_feed (wireFrame body) s, ?_⟩
    rw [hpush]
    refine ⟨?_, hlen, h.body_eq⟩
    rw [h.frame, hcount, h.crc_eq]
  · exact fun n hpos hcut => ⟨_, perform_feed _ s, pushBytes_take_wireFrame hstart hfit hpos hcut⟩

/-- Settles O43: the wrong trailer leaves AwaitSentinel, the start of the next frame, and the record stands. -/
theorem mismatchThenResync : Obligations.MismatchThenResync := by
  intro s body1 body2 trailer hfit1 hfit2 hwrong hstart bad
  obtain ⟨d, h, hpush⟩ := pushBytes_wrong_trailer hstart hfit1 hwrong
  have hpush : pushBytes bad s = { s with dec := d.mismatch trailer, resp := .ok } := hpush
  constructor
  · refine ⟨_, perform_feed bad s, ?_⟩
    rw [hpush, d.mismatch_eq]
    refine ⟨rfl, rfl, rfl, h.crc_eq, ?_, rfl, rfl, rfl⟩
    rw [h.mismatchCnt_eq]
    exact Nat.mod_eq_of_lt (by omega)
  · have hresync : ({ s with dec := d.mismatch trailer, resp := .ok } : State).dec.AtFrameStart := .inl rfl
    obtain ⟨d', h', hpush'⟩ := pushBytes_wireFrame hresync hfit2
    refine ⟨_, perform_feed (bad ++ wireFrame body2) s, ?_⟩
    rw [pushBytes_append, hpush, hpush']
    refine ⟨rfl, h'.crcErr_eq, ?_, h'.body_eq, rfl⟩
    exact (congrArg BitVec.toNat h'.len_eq).trans (toNat_lengthByte hfit2)

end Sys2Proof.Machine
end

section
/-!
PROOFS. The response reader, operation by operation (43_reader.md R180 to R186).
-/

namespace Sys2Proof.Machine

/-! ## The gets -/

/-- The register that a field's get reads (R181 to R183). -/
def Payload.getOff : Payload → Offset
  | .u8 _ => Off.rdGet8
  | .u16 _ => Off.rdGet16
  | .u32 _ => Off.rdGet32

/-- The three gets are one operation, over as many bytes as the field of that width has. -/
theorem exec_get (f : Payload) (s : State) : exec f.get s = .next (rdGet f.getOff f.bytes.length s) := by
  cases f <;> rfl

/-- Every get is the get of a field, at its register and of its width. -/
theorem exists_payload_of_get {i : Instr} {off : Offset} {n : Nat}
    (h : (i = .rdGet8 ∧ off = 0x068#12 ∧ n = 1) ∨ (i = .rdGet16 ∧ off = 0x06C#12 ∧ n = 2) ∨
      (i = .rdGet32 ∧ off = 0x070#12 ∧ n = 4)) :
    ∃ f : Payload, i = f.get ∧ off = f.getOff ∧ n = f.bytes.length := by
  obtain hget | hget | hget := h
  · exact ⟨.u8 0#8, hget⟩
  · exact ⟨.u16 0#16, hget⟩
  · exact ⟨.u32 0#32, hget⟩

theorem Payload.length_bytes_le (f : Payload) : f.bytes.length ≤ 4 := by
  cases f <;> simp [bytes]

/-- Four bytes fit the word read. -/
theorem toNat_ofNat_leValue {bytes : List Byte} (hfit : bytes.length ≤ 4) :
    (BitVec.ofNat 32 (leValue bytes)).toNat = leValue bytes := by
  have hlt : leValue bytes < 2 ^ 32 :=
    calc leValue bytes < 256 ^ bytes.length := leValue_lt bytes
      _ ≤ 256 ^ 4 := Nat.pow_le_pow_right (by decide) hfit
  rw [BitVec.toNat_ofNat, Nat.mod_eq_of_lt hlt]

/-- A get that succeeds. -/
theorem exec_get_of_fits {f : Payload} {s : State} (hphase : s.dec.phase = .complete)
    (hfit : s.rd.cursor.toNat + f.bytes.length ≤ s.dec.len.toNat) :
    exec f.get s = .next { s with
      rd := { s.rd with cursor := s.rd.cursor + BitVec.ofNat 8 f.bytes.length }
      resp := .rdata (BitVec.ofNat 32 (leValue (s.dec.body.slice s.rd.cursor.toNat f.bytes.length))) } := by
  rw [exec_get, rdGet_of_fits f.getOff hphase hfit]
  rfl

/-- Settles O45: each get is `rdGet` of its width, which reads all of its bytes or none. -/
theorem readerGets : Obligations.ReaderGets := by
  intro s w i off n
  refine ⟨?get8, ?get16, ?get32, fun hget => ?_⟩
  case get8 => exact decode_of_exactRow (build := fun _ => .rdGet8) rfl rfl rfl
  case get16 => exact decode_of_exactRow (build := fun _ => .rdGet16) rfl rfl rfl
  case get32 => exact decode_of_exactRow (build := fun _ => .rdGet32) rfl rfl rfl
  obtain ⟨f, rfl, rfl, rfl⟩ := exists_payload_of_get hget
  refine ⟨fun hother => ?_, fun hphase hpast => ?_, fun hphase hfit => ?_⟩
  · rw [exec_get, rdGet_of_notReady f.getOff _ hother]
    rfl
  · rw [exec_get, rdGet_of_pastEnd f.getOff hphase hpast]
    rfl
  · refine ⟨_, _, exec_get_of_fits hphase hfit, cursor_add hfit, ?_⟩
    rw [toNat_ofNat_leValue (by rw [Memory.slice_length]; exact f.length_bytes_le), leValue_slice]

/-! ## RD.CODE -/

theorem exec_rdCode_of_body {s : State} (hphase : s.dec.phase = .complete) (hlen : s.dec.len ≠ 0#8) :
    exec .rdCode s = .next { s with resp := .rdata (rdCodeWord Config.okCode (s.dec.body.read 0)) } :=
  if_neg (not_or.2 ⟨fun hunready => s.dec.not_ready_iff.1 hunready hphase, hlen⟩)

theorem exec_rdCode_of_no_body {s : State} (hnone : s.dec.phase ≠ .complete ∨ s.dec.len = 0#8) :
    exec .rdCode s = .next (rdNotReady Off.rdCode s) :=
  if_pos (hnone.imp_left s.dec.not_ready_iff.2)

/-- The fields of RD_CODE (10_state.md R47), from the number that the word stands for. -/
theorem rdCodeWord_fields (okCode code : Byte) :
    (rdCodeWord okCode code).extractLsb' 0 8 = code ∧
    (rdCodeWord okCode code).getLsbD 8 = decide (code = okCode) ∧
    (rdCodeWord okCode code).extractLsb' 9 23 = 0#23 := by
  have hok := toNat_le_one (code == okCode)
  refine ⟨field_eq ?_, bit_eq ?isOk, field_eq ?high⟩
  case isOk =>
    rw [rdCodeWord_toNat, ← Bool.beq_eq_decide_eq]
    omega
  case high =>
    rw [rdCodeWord_toNat, BitVec.toNat_ofNat]
    omega
  rw [rdCodeWord_toNat]
  omega

/-- Settles O46: the word of the first byte where there is one, NOT_READY elsewhere. -/
theorem readerCode : Obligations.ReaderCode := fun s _ =>
  ⟨decode_of_exactRow (build := fun _ => .rdCode) rfl rfl rfl,
    fun hphase hlen => ⟨_, exec_rdCode_of_body hphase hlen, rdCodeWord_fields Config.okCode (s.dec.body.read 0)⟩,
    exec_rdCode_of_no_body⟩

/-! ## RD_CTRL -/

theorem exec_rdCtrl (rewind clrErr : Bool) (s : State) :
    exec (.rdCtrl rewind clrErr) s = .next { s with
      resp := .ok,
      rd := ⟨if rewind then 1#8 else s.rd.cursor, s.rd.pastEnd && !clrErr, s.rd.notReady && !clrErr⟩ } := by
  cases rewind <;> cases clrErr <;> simp [exec, execRdCtrl, State.ok]

/-- Settles O47: REWIND gives the cursor and CLR_ERR the flags. -/
theorem readerControl : Obligations.ReaderControl := fun s _ rewind clrErr =>
  ⟨decode_of_exactRow (build := fun w => .rdCtrl (ctrlBit w 0) (ctrlBit w 1)) rfl rfl rfl,
    exec_rdCtrl rewind clrErr s⟩

/-! ## The status read -/

theorem exec_rdStatus (s : State) :
    exec .rdStatus s = .next { s with resp := .rdata (rdStatusWord s.dec s.rd) } := rfl

theorem Decoder.ready_eq_decide (d : Decoder) : d.ready = decide (d.phase = .complete) := beq_eq_decide _ _

theorem rdAvail_eq (d : Decoder) (r : Reader) :
    rdAvail d r = if d.phase = .complete then d.len.toNat - r.cursor.toNat else 0 :=
  if_congr d.ready_iff rfl rfl

/-- The fields of RD_STATUS (10_state.md R49), from the number that the word stands for. -/
theorem rdStatusWord_fields (d : Decoder) (r : Reader) :
    (rdStatusWord d r).extractLsb' 0 8 = r.cursor ∧
    ((rdStatusWord d r).extractLsb' 8 8).toNat = rdAvail d r ∧
    (rdStatusWord d r).getLsbD 16 = d.ready ∧ (rdStatusWord d r).getLsbD 17 = r.pastEnd ∧
    (rdStatusWord d r).getLsbD 18 = r.notReady ∧ (rdStatusWord d r).extractLsb' 19 13 = 0#13 := by
  have havail := rdAvail_lt d r
  have hready := toNat_le_one d.ready
  have hpast := toNat_le_one r.pastEnd
  have hnot := toNat_le_one r.notReady
  refine ⟨field_eq ?_, ?avail, bit_eq ?_, bit_eq ?_, bit_eq ?_, field_eq ?high⟩
  case avail =>
    rw [BitVec.extractLsb'_toNat, Nat.shiftRight_eq_div_pow, rdStatusWord_toNat]
    omega
  case high =>
    rw [rdStatusWord_toNat, BitVec.toNat_ofNat]
    omega
  all_goals
    rw [rdStatusWord_toNat]
    omega

/-- Settles O48: RD_STATUS field by field. -/
theorem readerStatusRead : Obligations.ReaderStatusRead := by
  intro s w
  refine ⟨decode_of_exactRow (build := fun _ => .rdStatus) rfl rfl rfl, _, exec_rdStatus s, ?_⟩
  rw [← s.dec.ready_eq_decide, ← rdAvail_eq]
  exact rdStatusWord_fields s.dec s.rd

end Sys2Proof.Machine
end

section
/-!
PROOFS. What the encoder builds the reader reads back (43_reader.md R187 (c)). A get takes its field's bytes off the
front of what stands behind the cursor, and their little-endian value is the field.
-/

namespace Sys2Proof.Machine

/-! ## A field's bytes and its value -/

theorem Payload.leValue_bytes (f : Payload) : leValue f.bytes = f.word.toNat := by
  cases f
  all_goals
    simp only [bytes, word, leValue, BitVec.toNat_setWidth, BitVec.extractLsb'_toNat, Nat.shiftRight_eq_div_pow]
    omega

/-! ## Gets, one after the other -/

theorem Memory.slice_add (m : Memory) (a k : Nat) : ∀ n, m.slice a (n + k) = m.slice a n ++ m.slice (a + n) k := by
  induction k with
  | zero => exact fun n => (List.append_nil _).symm
  | succ k ih =>
    intro n
    rw [← Nat.add_assoc, slice_succ, ih, slice_succ, List.append_assoc, Nat.add_assoc a n k]

/-- In a complete body, the bytes of these fields stand at the cursor. -/
structure State.Holds (s : State) (fields : List Payload) : Prop where
  phase_eq : s.dec.phase = .complete
  fits : s.rd.cursor.toNat + (payloadBytes fields).length ≤ s.dec.len.toNat
  slice_eq : s.dec.body.slice s.rd.cursor.toNat (payloadBytes fields).length = payloadBytes fields

/-- The get of the first field returns it, and the other fields stand at the cursor it leaves. -/
theorem State.Holds.exec_get {s : State} {f : Payload} {fields : List Payload} (h : s.Holds (f :: fields)) :
    ∃ t, exec f.get s = .next t ∧ t.resp = .rdata f.word ∧ t.Holds fields := by
  obtain ⟨hphase, hfits, hslice⟩ := h
  rw [payloadBytes_cons, List.length_append] at hfits hslice
  rw [Memory.slice_add] at hslice
  obtain ⟨hfirst, hrest⟩ := List.append_inj hslice (Memory.slice_length _ _ _)
  have hfit : s.rd.cursor.toNat + f.bytes.length ≤ s.dec.len.toNat := by omega
  have hcursor := cursor_add hfit
  refine ⟨_, exec_get_of_fits hphase hfit, ?_, hphase, ?_, ?_⟩
  · rw [hfirst, f.leValue_bytes, BitVec.ofNat_toNat, BitVec.setWidth_eq]
  · rw [hcursor, Nat.add_assoc]
    exact hfits
  · rw [hcursor]
    exact hrest

theorem State.Holds.readsBack {fields : List Payload} : ∀ {s : State}, s.Holds fields → ReadsBack fields s := by
  induction fields with
  | nil => exact fun _ => trivial
  | cons f fields ih =>
    intro s h
    obtain ⟨t, hexec, hresp, hrest⟩ := h.exec_get
    exact ⟨t, hexec, hresp, ih hrest⟩

/-! ## The whole way -/

/-- A pushed frame leaves its first byte to RD.CODE and the rest of its body at the cursor. -/
theorem exists_holds_of_wireFrame {s : State} (target : Byte) {fields : List Payload} (hstart : s.dec.AtFrameStart)
    (hfit : (target :: payloadBytes fields).length ≤ 255) :
    ∃ u, perform (feed (wireFrame (target :: payloadBytes fields))) s = .next u ∧
      u.dec.len.toNat = (payloadBytes fields).length + 1 ∧ u.dec.body.read 0 = target ∧
      u.dec.body.slice 0 u.dec.len.toNat = target :: payloadBytes fields ∧ u.Holds fields := by
  obtain ⟨⟨u, hperform, hu, hlen, hslice⟩, -⟩ := pushedFrameCompletes s _ hfit hstart
  have hphase : u.dec.phase = .complete := (congrArg (fun u : State => u.dec.phase) hu :)
  have hcursor : u.rd.cursor = 1#8 := (congrArg (fun u : State => u.rd.cursor) hu :)
  rw [← hlen] at hslice
  rw [List.length_cons] at hlen
  have hparts := hslice
  rw [hlen, Memory.slice] at hparts
  obtain ⟨hfirst, hrest⟩ := List.cons.inj hparts
  refine ⟨u, hperform, hlen, hfirst, hslice, hphase, ?_, ?_⟩
  · rw [hcursor, hlen, Nat.add_comm]
    rfl
  · rw [hcursor]
    exact hrest

/-- Settles O44: the built frame is the wire frame of a body, whose first byte is the target, and which holds at the
cursor the command, as a field of one byte, and the payload's fields. -/
theorem builtFrameReadsBack : Obligations.BuiltFrameReadsBack := by
  intro s target command fields hfit hstart
  have hbody : (target :: payloadBytes (.u8 command :: fields)).length = 2 + (payloadBytes fields).length :=
    Nat.add_comm _ 2
  obtain ⟨t, hbuild, ht, -, -, -, -, hframe, -⟩ := builtFrameIsTheWireFrame s target command fields hfit
  have hwire : t.enc.buf.slice 0 (encFrameLen t.enc) = wireFrame (target :: payloadBytes (.u8 command :: fields)) := by
    rw [hframe, wireFrame, hbody]
    rfl
  have hstart' : t.dec.AtFrameStart := by
    rw [ht]
    exact hstart
  obtain ⟨u, hpush, hlen, hfirst, hslice, hholds⟩ :=
    exists_holds_of_wireFrame target hstart' (fields := .u8 command :: fields) (by omega)
  have hnonempty : u.dec.len ≠ 0#8 := fun hzero => by simp [hzero] at hlen
  have hcode := exec_rdCode_of_body hholds.phase_eq hnonempty
  obtain ⟨hfield, -⟩ := rdCodeWord_fields Config.okCode (u.dec.body.read 0)
  refine ⟨t, hbuild, u, ?_, hholds.phase_eq, hlen.trans hbody, hslice, ⟨_, _, hcode, rfl, hfield.trans hfirst⟩,
    hholds.readsBack⟩
  rw [hwire, hpush]

end Sys2Proof.Machine
end

section
/-!
PROOFS. The registers of the move planner, inputs and results (44_segmenter.md R207 to R217).
-/

namespace Sys2Proof

/-- A read, or a write that ignores its data word, decodes to the one operation of its row. -/
theorem decode_of_constantRow {dir : Dir} {off : Offset} {w : Word} {pattern : AccessWord} {i : Instr}
    (hrow : opTable[i.ctorIdx]? = some (exactRow pattern fun _ => i))
    (hword : (Access.mk dir off 4 0#32).word = pattern) (haligned : off.toNat % 4 = 0) :
    decode ⟨dir, off, 4, w⟩ = .ok i :=
  decode_of_exactRow (build := fun _ => i) hrow hword haligned

end Sys2Proof

namespace Sys2Proof.Machine

/-! ## The inputs and the clock constant -/

/-- K has its range by the type of its parameter (00_scope.md R6). -/
theorem clock_range : 1 ≤ Config.clock ∧ Config.clock ≤ 2 ^ 32 - 1 := by
  have hlt := Config.clockMinusOne.isLt
  rw [Config.clock]
  omega

theorem toNat_clock : (BitVec.ofNat 32 Config.clock).toNat = Config.clock := by
  obtain ⟨-, hmax⟩ := clock_range
  rw [BitVec.toNat_ofNat, Nat.mod_eq_of_lt (by omega)]

theorem exec_mvK (s : State) : exec .mvK s = .next { s with resp := .rdata (BitVec.ofNat 32 Config.clock) } := rfl

/-- Settles O51: each input is a field of its own, and MV_K carries K whole. -/
theorem plannerInputs : Obligations.PlannerInputs := by
  intro s w
  refine ⟨decode_of_exactRow (build := .mvSetdx) rfl rfl rfl, decode_of_constantRow rfl rfl rfl,
    decode_of_exactRow (build := .mvSetdy) rfl rfl rfl, decode_of_constantRow rfl rfl rfl,
    decode_of_exactRow (build := .mvSetdz) rfl rfl rfl, decode_of_constantRow rfl rfl rfl,
    decode_of_exactRow (build := .mvSetfeed) rfl rfl rfl, decode_of_constantRow rfl rfl rfl,
    decode_of_constantRow rfl rfl rfl,
    rfl, rfl, rfl, rfl, rfl, rfl, rfl, rfl, _, exec_mvK s, ?_⟩
  rw [toNat_clock]
  exact ⟨rfl, clock_range⟩

/-! ## The results -/

/-- The fields of MV_STATUS (10_state.md R55), from the number that the word stands for. -/
theorem mvStatusWord_fields (p : Planner) :
    (mvStatusWord p).getLsbD 0 = p.planned ∧ (mvStatusWord p).getLsbD 1 = p.zeroMove ∧
    (mvStatusWord p).getLsbD 2 = p.feedZero ∧ (mvStatusWord p).getLsbD 3 = p.ticksSat ∧
    (mvStatusWord p).getLsbD 4 = p.segValid ∧ (mvStatusWord p).getLsbD 5 = p.seqErr ∧
    (mvStatusWord p).extractLsb' 6 26 = 0#26 := by
  have hplanned := toNat_le_one p.planned
  have hzero := toNat_le_one p.zeroMove
  have hfeed := toNat_le_one p.feedZero
  have hsat := toNat_le_one p.ticksSat
  have hvalid := toNat_le_one p.segValid
  have hseq := toNat_le_one p.seqErr
  refine ⟨bit_eq ?_, bit_eq ?_, bit_eq ?_, bit_eq ?_, bit_eq ?_, bit_eq ?_, field_eq ?high⟩
  case high =>
    rw [mvStatusWord_toNat, BitVec.toNat_ofNat]
    omega
  all_goals
    rw [mvStatusWord_toNat]
    omega

theorem exec_mvStatus (s : State) : exec .mvStatus s = .next { s with resp := .rdata (mvStatusWord s.mv) } := rfl

/-- Settles O52: MV_STATUS field by field, and every other result as it is stored. -/
theorem plannerResultReads : Obligations.PlannerResultReads := fun s _ =>
  ⟨decode_of_constantRow rfl rfl rfl, decode_of_constantRow rfl rfl rfl, decode_of_constantRow rfl rfl rfl,
    decode_of_constantRow rfl rfl rfl, decode_of_constantRow rfl rfl rfl, decode_of_constantRow rfl rfl rfl,
    decode_of_constantRow rfl rfl rfl, decode_of_constantRow rfl rfl rfl, decode_of_constantRow rfl rfl rfl,
    decode_of_constantRow rfl rfl rfl, ⟨_, exec_mvStatus s, mvStatusWord_fields s.mv⟩,
    rfl, rfl, rfl, rfl, rfl, rfl, rfl, rfl, rfl⟩

end Sys2Proof.Machine
end

section
/-!
PROOFS. The two formulas of the move planner that the model computes on integers: the ticks of a move and the share of
an axis (44_segmenter.md R201, R205).
-/

namespace Sys2Proof.Machine

/-- Settles O54: the clock goes under the root, `isqrt` is the floor of that root, and a floor divided by a number is the
floor of the quotient. -/
theorem ticksAreTheExactFloor : Obligations.TicksAreTheExactFloor := by
  intro k d2 m f _ _
  have hroot : √(d2 : ℝ) * k = √((d2 * k * k : ℕ) : ℝ) := by
    push_cast
    rw [mul_assoc, Real.sqrt_mul (Nat.cast_nonneg d2), Real.sqrt_mul_self (Nat.cast_nonneg k)]
  rw [hroot, div_div, ← Nat.cast_mul, Nat.floor_div_natCast, Real.nat_floor_real_sqrt_eq_nat_sqrt, ← isqrt_eq_sqrt]
  rfl

/-- Settles O57: over the denominator `2 · remM` the rounded ratio is the quotient that the model divides out. -/
theorem shareRoundsHalfUp : Obligations.ShareRoundsHalfUp := by
  intro remM rem hpos
  have hratio : (65535 * (rem : ℚ)) / remM + 1 / 2 =
      ((2 * Config.segMax * rem + remM : ℕ) : ℚ) / ((2 * remM : ℕ) : ℚ) := by
    have hne : (remM : ℚ) ≠ 0 := Nat.cast_ne_zero.2 hpos.ne'
    rw [Config.segMax]
    push_cast
    field_simp
    ring
  rw [hratio, Nat.floor_div_eq_div]
  rfl

end Sys2Proof.Machine
end

section
/-!
PROOFS. The two commands of the move planner, PLAN and NEXT (44_segmenter.md R202, R204).
-/

namespace Sys2Proof.Machine

/-! ## MV_CTRL -/

/-- The planner as PLAN finds it: CLR_ERR has taken the two sticky flags. -/
def Planner.afterClrErr (p : Planner) (clrErr : Bool) : Planner :=
  { p with feedZero := p.feedZero && !clrErr, seqErr := p.seqErr && !clrErr }

theorem exec_mvCtrl (plan clrErr : Bool) (s : State) :
    exec (.mvCtrl plan clrErr) s = .next { s with
      resp := .ok,
      mv := if plan then (s.mv.afterClrErr clrErr).plan Config.clock else s.mv.afterClrErr clrErr } := by
  cases clrErr <;> simp [exec, execMvCtrl, Planner.clearErrors, Planner.afterClrErr, State.ok]

/-- Settles O55, along the three outcomes of a PLAN. -/
theorem planCommand : Obligations.PlanCommand := by
  intro s w clrErr m sg M D2 F E cleared
  refine ⟨decode_of_exactRow (build := fun w => .mvCtrl (ctrlBit w 0) (ctrlBit w 1)) rfl rfl rfl,
    exec_mvCtrl false clrErr s, fun hzero => ?_, fun hmove hfeed => ?_, fun hmove hfeed => ?_⟩
  · rw [exec_mvCtrl, if_pos rfl, Planner.plan_of_zeroMove (p := s.mv.afterClrErr clrErr) _ hzero]
    rfl
  · rw [exec_mvCtrl, if_pos rfl, Planner.plan_of_feedZero (p := s.mv.afterClrErr clrErr) _ hmove hfeed]
    rfl
  · rw [exec_mvCtrl, if_pos rfl, Planner.plan_of_move (p := s.mv.afterClrErr clrErr) _ hmove hfeed]
    rfl

/-! ## MV.NEXT -/

theorem exec_mvNext_of_left {s : State} (h : s.mv.segLeft ≠ 0#32) :
    exec .mvNext s = .next { s with mv := s.mv.advance, resp := .ok } := if_neg h

theorem exec_mvNext_of_none {s : State} (h : s.mv.segLeft = 0#32) :
    exec .mvNext s = .next ({ s with mv := { s.mv with seqErr := true } }.raise .write Off.mvNext .sequence) :=
  if_pos h

theorem Sign.apply_eq_mul (g : Sign) (n : Nat) : g.apply n = (if g = .plus then 1 else -1) * (n : Int) := by
  cases g <;> simp [apply]

/-- What an axis with `rem` steps left is given in the next segment, when the master axis has `remM` left (R204). -/
def axisShare (remM rem : Nat) : Nat := if remM > Config.segMax then segShare remM rem else rem

theorem Planner.allocation_eq_map (p : Planner) : p.allocation = p.rem.map (axisShare p.remM) := by
  unfold allocation axisShare
  split <;> rfl

/-- Settles O56: a segment left is one `Planner.advance`, none left is a bus error. -/
theorem nextSegment : Obligations.NextSegment := by
  intro s w al signed
  refine ⟨decode_of_constantRow rfl rfl rfl, fun hleft => ?_, exec_mvNext_of_none⟩
  have hsigned : ∀ g n, BitVec.ofInt 32 (Sign.apply g n) = signed g n := fun g n =>
    congrArg (BitVec.ofInt 32) (g.apply_eq_mul n)
  rw [exec_mvNext_of_left hleft, Planner.advance, s.mv.allocation_eq_map]
  simp only [PerAxis.zip, PerAxis.map, hsigned]
  rfl

end Sys2Proof.Machine
end

section
/-!
PROOFS. The segments of a plan lose no step (44_segmenter.md R206). One axis of a plan is followed through its segments
by itself: what MV.NEXT gives it depends on its own remainder and on that of the master axis only.
-/

namespace Sys2Proof.Machine

/-! ## What one MV.NEXT leaves -/

theorem masterSteps_le_iff {m : PerAxis Nat} {n : Nat} : masterSteps m ≤ n ↔ m.x ≤ n ∧ m.y ≤ n ∧ m.z ≤ n := by
  rw [masterSteps, max_le_iff, max_le_iff]

theorem eq_zero_of_masterSteps_le {m : PerAxis Nat} (h : masterSteps m ≤ 0) : m = ⟨0, 0, 0⟩ := by
  obtain ⟨x, y, z⟩ := m
  obtain ⟨hx, hy, hz⟩ := masterSteps_le_iff.1 h
  obtain rfl : x = 0 := Nat.le_zero.1 hx
  obtain rfl : y = 0 := Nat.le_zero.1 hy
  obtain rfl : z = 0 := Nat.le_zero.1 hz
  rfl

theorem Planner.advance_rem_eq_map (p : Planner) : p.advance.rem = p.rem.map (fun r => r - axisShare p.remM r) := by
  rw [advance_rem, allocation_eq_map]
  rfl

theorem Planner.advance_seg_eq (p : Planner) :
    p.advance.seg = p.sgn.zip (fun g r => BitVec.ofInt 32 (g.apply (axisShare p.remM r))) p.rem := by
  rw [advance_seg, allocation_eq_map]
  rfl

/-- No axis has more left than the master axis, after a segment as before it (R206 (a)). -/
theorem Planner.masterSteps_advance_rem_le {p : Planner} (h : masterSteps p.rem ≤ p.remM) :
    masterSteps p.advance.rem ≤ p.advance.remM := by
  have left_le {r : Nat} (hr : r ≤ p.remM) : r - axisShare p.remM r ≤ p.remM - 65535 :=
    have ⟨_, _, hleft⟩ := segment_share hr rfl
    hleft
  obtain ⟨hx, hy, hz⟩ := masterSteps_le_iff.1 h
  rw [advance_rem_eq_map, advance_remM]
  exact masterSteps_le_iff.2 ⟨left_le hx, left_le hy, left_le hz⟩

/-- The planner after an MV.NEXT, whether or not a segment was left. -/
theorem mv_of_exec_mvNext {s t : State} (h : exec .mvNext s = .next t) :
    t.mv = s.mv.advance ∨ t.mv = { s.mv with seqErr := true } := by
  by_cases hleft : s.mv.segLeft = 0#32
  · rw [exec_mvNext_of_none hleft, Host.Outcome.next.injEq] at h
    exact .inr (h ▸ rfl)
  · rw [exec_mvNext_of_left hleft, Host.Outcome.next.injEq] at h
    exact .inl (h ▸ rfl)

theorem masterSteps_le_of_exec_mvNext {s t : State} (h : masterSteps s.mv.rem ≤ s.mv.remM)
    (hexec : exec .mvNext s = .next t) : masterSteps t.mv.rem ≤ t.mv.remM := by
  obtain hmv | hmv := mv_of_exec_mvNext hexec
  · rw [hmv]
    exact Planner.masterSteps_advance_rem_le h
  · rw [hmv]
    exact h

/-- One segment less is left, as the steps of the master axis that are left need. -/
theorem Planner.segLeft_advance {p : Planner} (hleft : p.segLeft ≠ 0#32) (hcount : p.segLeft.toNat = segCount p.remM) :
    p.advance.segLeft.toNat = segCount p.advance.remM ∧ segCount p.remM = segCount p.advance.remM + 1 := by
  have hpos : 0 < p.segLeft.toNat := Nat.pos_of_ne_zero fun h => hleft (BitVec.eq_of_toNat_eq h)
  have hstep : segCount p.remM = segCount p.advance.remM + 1 := by
    have hremM : 0 < p.remM := segCount_pos.1 (hcount ▸ hpos)
    rw [advance_remM]
    by_cases hlast : p.remM ≤ 65535
    · rw [segCount_eq_one hremM hlast, Nat.sub_eq_zero_of_le hlast, segCount_zero]
    · exact segCount_sub (by omega)
  have hleft' : p.advance.segLeft.toNat = p.segLeft.toNat - 1 := by
    rw [advance_segLeft]
    bv_omega
  exact ⟨by omega, hstep⟩

/-! ## One axis of a plan -/

theorem axisSum_cons (axis : PerAxis Word → Word) (w : PerAxis Word) (segs : List (PerAxis Word)) :
    axisSum axis (w :: segs) = (axis w).toInt + axisSum axis segs := List.sum_cons

theorem Sign.apply_add_apply_sub (g : Sign) {n r : Nat} (h : n ≤ r) : g.apply n + g.apply (r - n) = g.apply r := by
  cases g <;> simp only [apply] <;> omega

theorem Sign.apply_mul_apply_nonneg (g : Sign) (n k : Nat) : 0 ≤ g.apply n * g.apply k := by
  cases g with
  | plus => exact mul_nonneg (Int.natCast_nonneg n) (Int.natCast_nonneg k)
  | minus => exact (mul_nonneg (Int.natCast_nonneg n) (Int.natCast_nonneg k)).trans_eq (neg_mul_neg _ _).symm

/-- The segments of an axis that has `rem` steps left in the direction `g`, when the master axis has `remM`: R206 (b) to
(e) for one axis. -/
structure AxisSegments (axis : PerAxis Word → Word) (g : Sign) (remM rem : Nat) (segs : List (PerAxis Word)) : Prop where
  sum_eq : axisSum axis segs = g.apply rem
  share : ∀ w ∈ segs, ∃ n : Nat, n ≤ 65535 ∧ n ≤ rem ∧ axis w = BitVec.ofInt 32 (g.apply n)
  full : rem = remM → ∀ w ∈ segs.dropLast, (axis w).toInt.natAbs = 65535

theorem AxisSegments.nil (axis : PerAxis Word → Word) (g : Sign) (remM : Nat) : AxisSegments axis g remM 0 [] where
  sum_eq := by cases g <;> rfl
  share := fun _ hw => absurd hw List.not_mem_nil
  full := fun _ _ hw => absurd hw List.not_mem_nil

/-- An axis gets its share first and then what the plan gives for the rest. A segment that is not the last one is a share
of a master axis with more than 65535 steps left. -/
theorem AxisSegments.cons {axis : PerAxis Word → Word} {g : Sign} {remM rem : Nat} {w : PerAxis Word}
    {segs : List (PerAxis Word)} (hrem : rem ≤ remM) (hlen : segs.length = segCount (remM - 65535))
    (hw : axis w = BitVec.ofInt 32 (g.apply (axisShare remM rem)))
    (h : AxisSegments axis g (remM - 65535) (rem - axisShare remM rem) segs) :
    AxisSegments axis g remM rem (w :: segs) := by
  obtain ⟨hmax, hle, -⟩ := segment_share (al := axisShare remM rem) hrem rfl
  have hvalue : (axis w).toInt = g.apply (axisShare remM rem) := by
    rw [hw, toInt_ofInt_apply g (by omega)]
  refine ⟨?sum, List.forall_mem_cons.2 ⟨⟨_, hmax, hle, hw⟩, fun v hv => ?later⟩, fun hmaster => ?full⟩
  case sum => rw [axisSum_cons, h.sum_eq, hvalue, g.apply_add_apply_sub hle]
  case later =>
    obtain ⟨n, hn, hnrem, hv⟩ := h.share v hv
    exact ⟨n, hn, by omega, hv⟩
  case full =>
    subst hmaster
    match segs with
    | [] => exact fun _ hv => absurd hv List.not_mem_nil
    | v :: rest =>
      have hmore : 0 < rem - 65535 := segCount_pos.1 (hlen ▸ Nat.succ_pos _)
      have hshare : axisShare rem rem = 65535 := by
        rw [axisShare, if_pos (by rw [Config.segMax]; omega), segShare_self (by omega)]
      rw [List.dropLast_cons_cons, List.forall_mem_cons]
      refine ⟨?_, h.full (master_sub_share rfl)⟩
      rw [hvalue, hshare]
      cases g <;> rfl

/-- A segment of an axis with the steps of `d` to go does not exceed its register and does not move against `d`
(R206 (c), (e)). -/
theorem AxisSegments.follows {axis : PerAxis Word → Word} {d : Word} {remM : Nat} {segs : List (PerAxis Word)}
    (h : AxisSegments axis (signOf d.toInt) remM d.toInt.natAbs segs) {w : PerAxis Word} (hw : w ∈ segs) :
    (axis w).toInt.natAbs ≤ 65535 ∧ 0 ≤ (axis w).toInt * d.toInt ∧ (d = 0#32 → axis w = 0#32) := by
  obtain ⟨n, hn, hle, hw⟩ := h.share w hw
  have hvalue : (axis w).toInt = (signOf d.toInt).apply n := by
    rw [hw, toInt_ofInt_apply _ (by omega)]
  have habs : ((signOf d.toInt).apply n).natAbs = n := by
    cases signOf d.toInt <;> simp [Sign.apply]
  refine ⟨by rwa [hvalue, habs], ?sign, ?zero⟩
  case sign =>
    have hsame := (signOf d.toInt).apply_mul_apply_nonneg n d.toInt.natAbs
    rwa [signOf_apply, ← hvalue] at hsame
  case zero =>
    rintro rfl
    obtain rfl : n = 0 := Nat.le_zero.1 hle
    rw [hw]
    rfl

/-- No step is lost (R206 (d)). -/
theorem AxisSegments.axisSum_eq {axis : PerAxis Word → Word} {d : Word} {remM : Nat} {segs : List (PerAxis Word)}
    (h : AxisSegments axis (signOf d.toInt) remM d.toInt.natAbs segs) : axisSum axis segs = d.toInt :=
  h.sum_eq.trans (signOf_apply d.toInt)

/-- A single segment is the delta. -/
theorem AxisSegments.eq_of_singleton {axis : PerAxis Word → Word} {d : Word} {remM : Nat} {w : PerAxis Word}
    (h : AxisSegments axis (signOf d.toInt) remM d.toInt.natAbs [w]) : axis w = d :=
  BitVec.eq_of_toInt_eq ((add_zero _).symm.trans h.axisSum_eq)

/-! ## The segments of a plan -/

/-- What is left of a plan is given out in these segments. -/
structure Planner.PlanSegments (p : Planner) (segs : List (PerAxis Word)) : Prop where
  length_eq : segs.length = segCount p.remM
  x : AxisSegments PerAxis.x p.sgn.x p.remM p.rem.x segs
  y : AxisSegments PerAxis.y p.sgn.y p.remM p.rem.y segs
  z : AxisSegments PerAxis.z p.sgn.z p.remM p.rem.z segs

theorem Planner.PlanSegments.cons {p : Planner} {segs : List (PerAxis Word)} (hrem : masterSteps p.rem ≤ p.remM)
    (hcount : segCount p.remM = segCount p.advance.remM + 1) (h : p.advance.PlanSegments segs) :
    p.PlanSegments (p.advance.seg :: segs) := by
  obtain ⟨hx, hy, hz⟩ := masterSteps_le_iff.1 hrem
  obtain ⟨hlen, segsx, segsy, segsz⟩ := h
  rw [advance_rem_eq_map, advance_remM] at segsx segsy segsz
  have hlen' : segs.length = segCount (p.remM - 65535) := by rw [hlen, advance_remM]
  have hseg := p.advance_seg_eq
  exact ⟨by rw [List.length_cons, hlen, hcount], segsx.cons hx hlen' (congrArg PerAxis.x hseg),
    segsy.cons hy hlen' (congrArg PerAxis.y hseg), segsz.cons hz hlen' (congrArg PerAxis.z hseg)⟩

/-- By induction on the segments that are left: as many MV.NEXT succeed, and then no step is left. -/
theorem exists_planSegments {s : State} (hrem : masterSteps s.mv.rem ≤ s.mv.remM)
    (hcount : s.mv.segLeft.toNat = segCount s.mv.remM) :
    ∃ segs u, SegmentsFrom segs s u ∧ s.mv.PlanSegments segs ∧ u.mv.segLeft = 0#32 ∧ u.mv.rem = ⟨0, 0, 0⟩ := by
  induction hn : segCount s.mv.remM generalizing s with
  | zero =>
    have hremM : s.mv.remM = 0 := Nat.eq_zero_of_not_pos fun hpos => (segCount_pos.2 hpos).ne' hn
    have hnone : s.mv.rem = ⟨0, 0, 0⟩ := eq_zero_of_masterSteps_le (hrem.trans_eq hremM)
    refine ⟨[], s, rfl, ⟨hn.symm, ?_, ?_, ?_⟩, BitVec.eq_of_toNat_eq (hcount.trans hn), hnone⟩
    all_goals
      rw [hnone]
      exact .nil _ _ _
  | succ n ih =>
    have hleft : s.mv.segLeft ≠ 0#32 := fun h => by
      rw [← hcount, h] at hn
      exact absurd hn (Nat.succ_ne_zero n).symm
    obtain ⟨hcount', hstep⟩ := Planner.segLeft_advance hleft hcount
    obtain ⟨segs, u, hsegs, hplan, hend⟩ := ih (s := { s with mv := s.mv.advance, resp := .ok })
      (Planner.masterSteps_advance_rem_le hrem) hcount' (Nat.succ.inj (hstep.symm.trans hn))
    exact ⟨s.mv.advance.seg :: segs, u, ⟨_, exec_mvNext_of_left hleft, rfl, hsegs⟩, hplan.cons hrem hstep, hend⟩

/-- A PLAN of a move latches the deltas' directions and magnitudes, and every segment is still to come (R202). -/
theorem exists_exec_plan {s : State} (clrErr : Bool) (hmove : masterSteps s.mv.magnitude ≠ 0)
    (hfeed : s.mv.feed ≠ 0#32) :
    ∃ t, exec (.mvCtrl true clrErr) s = .next t ∧ t.mv.sgn = s.mv.direction ∧ t.mv.rem = s.mv.magnitude ∧
      t.mv.remM = masterSteps s.mv.magnitude ∧ t.mv.nseg = t.mv.segLeft ∧
      t.mv.segLeft.toNat = segCount (masterSteps s.mv.magnitude) := by
  have hfeed' : s.mv.feed.toNat ≠ 0 := fun h => hfeed (BitVec.eq_of_toNat_eq h)
  refine ⟨_, exec_mvCtrl true clrErr s, ?_⟩
  rw [if_pos rfl, Planner.plan_of_move (p := s.mv.afterClrErr clrErr) _ hmove hfeed']
  refine ⟨rfl, rfl, rfl, rfl, (BitVec.toNat_ofNat ..).trans (Nat.mod_eq_of_lt ?_)⟩
  exact segCount_lt (masterSteps_magnitude_le _)

/-- A plan of one segment gives the deltas in it (R206 (f)). -/
theorem eq_singleton_of_axisSegments {d : PerAxis Word} {remM : Nat} {segs : List (PerAxis Word)}
    (hlen : segs.length = 1) (hx : AxisSegments PerAxis.x (signOf d.x.toInt) remM d.x.toInt.natAbs segs)
    (hy : AxisSegments PerAxis.y (signOf d.y.toInt) remM d.y.toInt.natAbs segs)
    (hz : AxisSegments PerAxis.z (signOf d.z.toInt) remM d.z.toInt.natAbs segs) : segs = [d] := by
  obtain ⟨w, rfl⟩ := List.length_eq_one_iff.1 hlen
  calc [w] = [⟨w.x, w.y, w.z⟩] := rfl
    _ = [⟨d.x, d.y, d.z⟩] := by rw [hx.eq_of_singleton, hy.eq_of_singleton, hz.eq_of_singleton]

/-- Settles O58: the plan has its segments, and each axis of them is an `AxisSegments` of its delta. -/
theorem segmentsAreLossless : Obligations.SegmentsAreLossless := by
  refine ⟨fun _ _ => masterSteps_le_of_exec_mvNext, ?_⟩
  intro s clrErr m follows d M hmove hfeed
  obtain ⟨t, hexec, hsgn, hmag, hmaster, hnseg, hcount⟩ := exists_exec_plan clrErr hmove hfeed
  have hrem : masterSteps t.mv.rem ≤ t.mv.remM := by rw [hmag, hmaster]
  rw [← hmaster] at hcount
  obtain ⟨segs, u, hsegs, ⟨hlen, hx, hy, hz⟩, hleft, hnone⟩ := exists_planSegments hrem hcount
  rw [← hcount, ← hnseg] at hlen
  rw [hsgn, hmag, hmaster] at hx hy hz
  have hlenM : segs.length = segCount M := by rw [hlen, hnseg, hcount, hmaster]; rfl
  have hshort (h : M ≤ 65535) : segs = [d] :=
    eq_singleton_of_axisSegments (hlenM.trans (segCount_eq_one (Nat.pos_of_ne_zero hmove) h)) hx hy hz
  exact ⟨t, segs, u, hexec, hsegs, hrem, hlenM, hlen.symm, hleft, hnone, hx.axisSum_eq, hy.axisSum_eq, hz.axisSum_eq,
    fun w hw => ⟨hx.follows hw, hy.follows hw, hz.follows hw⟩,
    fun w hw => ⟨fun h => hx.full h w hw, fun h => hy.full h w hw, fun h => hz.full h w hw⟩, hshort⟩

end Sys2Proof.Machine
end

section
/-!
PROOFS. The timer quantizer (45_quantizer.md R240 to R244): which band a tick count gets, what its counter is worth
there, and the three operations of the unit.
-/

namespace Sys2Proof.Machine

/-! ## What `quantize` chooses -/

/-- The factor of a band (R6), 0 past the last one. -/
def bandFactor (band : Nat) : Nat := Config.tqFactors.getD band 0

theorem bandFactor_values :
    bandFactor 0 = 1 ∧ bandFactor 1 = 8 ∧ bandFactor 2 = 64 ∧ bandFactor 3 = 256 ∧ bandFactor 4 = 1024 :=
  ⟨rfl, rfl, rfl, rfl, rfl⟩

theorem bandFactor_pos {band : Nat} (h : band ≤ 4) : 0 < bandFactor band := by
  interval_cases band <;> decide

/-- Each band's factor is at most eight times the one below it, so a band starts with an eighth of its counter's range
used up (R244 (b)). -/
theorem le_bandStart {band : Nat} (hpos : 1 ≤ band) (h : band ≤ 4) :
    8191 ≤ 65535 * bandFactor (band - 1) / bandFactor band := by
  interval_cases band <;> decide

/-- R244 (a): the range of both results. -/
theorem quantize_bounds (t : Nat) : (quantize t).band ≤ 4 ∧ (quantize t).counter ≤ 65535 := by
  obtain ⟨_, e⟩ | ⟨_, _, e⟩ | ⟨_, _, e⟩ | ⟨_, _, e⟩ | ⟨_, _, e⟩ | ⟨_, e⟩ := quantize_cases t
  all_goals
    rw [e]
    dsimp only
    omega

/-- Only the tick counts past the last band's range saturate (R244 (d)). -/
theorem quantize_sat_iff (t : Nat) : (quantize t).sat = true ↔ t > 67107840 := by
  obtain ⟨_, e⟩ | ⟨_, _, e⟩ | ⟨_, _, e⟩ | ⟨_, _, e⟩ | ⟨_, _, e⟩ | ⟨hlo, e⟩ := quantize_cases t
  case inr.inr.inr.inr.inr =>
    rw [e]
    exact iff_of_true rfl hlo
  all_goals
    rw [e]
    exact iff_of_false Bool.false_ne_true (by omega)

theorem quantize_of_sat {t : Nat} (hsat : (quantize t).sat = true) : quantize t = ⟨4, 65535, true⟩ := by
  have hlo := (quantize_sat_iff t).1 hsat
  obtain ⟨_, _⟩ | ⟨_, _, _⟩ | ⟨_, _, _⟩ | ⟨_, _, _⟩ | ⟨_, _, _⟩ | ⟨_, e⟩ := quantize_cases t
  case inr.inr.inr.inr.inr => exact e
  all_goals omega

/-- Short of saturation the band is the least whose range reaches the tick count, and the counter is the quotient by
its factor (R244 (b)). -/
theorem quantize_of_unsat {t : Nat} (hunsat : (quantize t).sat = false) :
    t ≤ 65535 * bandFactor (quantize t).band ∧ (∀ i < (quantize t).band, 65535 * bandFactor i < t) ∧
      (quantize t).counter = t / bandFactor (quantize t).band := by
  obtain ⟨_, e⟩ | ⟨_, _, e⟩ | ⟨_, _, e⟩ | ⟨_, _, e⟩ | ⟨_, _, e⟩ | ⟨_, e⟩ := quantize_cases t
  case inr.inr.inr.inr.inr =>
    rw [e] at hunsat
    exact absurd hunsat Bool.noConfusion
  all_goals
    rw [e]
    refine ⟨?reach, ?least, ?quotient⟩
    case reach =>
      simp only [bandFactor_values]
      omega
    case least =>
      intro i hi
      interval_cases i
      all_goals
        simp only [bandFactor_values]
        omega
    case quotient => simp [bandFactor_values]

/-- Above the lowest band the counter is at least that of the band's start (R244 (b)). -/
theorem bandStart_le_counter {t : Nat} (hunsat : (quantize t).sat = false) (hpos : 1 ≤ (quantize t).band) :
    65535 * bandFactor ((quantize t).band - 1) / bandFactor (quantize t).band ≤ (quantize t).counter := by
  obtain ⟨-, hleast, hcounter⟩ := quantize_of_unsat hunsat
  rw [hcounter]
  exact Nat.div_le_div_right (hleast _ (Nat.sub_lt hpos Nat.one_pos)).le

/-- Of two tick counts in one band the larger has the larger counter: a quotient by the same factor, or the largest
counter there is (R244 (e)). -/
theorem counter_le_of_band_eq {t1 t2 : Nat} (hle : t1 ≤ t2) (hband : (quantize t1).band = (quantize t2).band) :
    (quantize t1).counter ≤ (quantize t2).counter := by
  cases hsat2 : (quantize t2).sat with
  | true =>
    obtain ⟨-, hmax⟩ := quantize_bounds t1
    rwa [quantize_of_sat hsat2]
  | false =>
    have hsat1 : (quantize t1).sat = false := by
      have htop := mt (quantize_sat_iff t2).2 (Bool.eq_false_iff.1 hsat2)
      exact Bool.eq_false_iff.2 (mt (quantize_sat_iff t1).1 (by omega))
    obtain ⟨-, -, hcounter1⟩ := quantize_of_unsat hsat1
    obtain ⟨-, -, hcounter2⟩ := quantize_of_unsat hsat2
    rw [hcounter1, hcounter2, hband]
    exact Nat.div_le_div_right hle

/-- Band 0 is exact (R244 (f)). -/
theorem quantize_of_le {t : Nat} (h : t ≤ 65535) : quantize t = ⟨0, t, false⟩ := by
  obtain ⟨_, e⟩ | ⟨_, _, _⟩ | ⟨_, _, _⟩ | ⟨_, _, _⟩ | ⟨_, _, _⟩ | ⟨_, _⟩ := quantize_cases t
  case inl => exact e
  all_goals omega

/-- Settles O50: the least band, what its factor leaves of the tick count, and the two values at a band's end. -/
theorem quantizeChoosesTheBand : Obligations.QuantizeChoosesTheBand := by
  refine ⟨fun t => ?_, fun t1 t2 hle hband => ?monotone, by decide, by decide⟩
  case monotone =>
    rw [hband]
    exact Nat.mul_le_mul_right _ (counter_le_of_band_eq hle hband)
  obtain ⟨hband, hcounter⟩ := quantize_bounds t
  refine ⟨hband, hcounter, fun hunsat => ?_, quantize_sat_iff t, fun hsat => ?saturated, quantize_of_le⟩
  case saturated =>
    rw [quantize_of_sat hsat]
    exact ⟨rfl, rfl⟩
  obtain ⟨hreach, hleast, hquot⟩ := quantize_of_unsat hunsat
  have hstart (hpos : 1 ≤ (quantize t).band) := And.intro (bandStart_le_counter hunsat hpos) (le_bandStart hpos hband)
  refine ⟨hreach, hleast, hstart, hquot, ?_⟩
  rw [hquot]
  exact ⟨Nat.div_mul_le_self _ _, Nat.lt_div_mul_add (bandFactor_pos hband)⟩

/-! ## The operations -/

/-- The fields of TQ_RESULT (10_state.md R51), from the number that the word stands for. -/
theorem timerWord_fields {r : TimerSetting} (hband : r.band < 8) (hcounter : r.counter < 2 ^ 16) :
    ((timerWord r).extractLsb' 0 16).toNat = r.counter ∧ ((timerWord r).extractLsb' 16 3).toNat = r.band ∧
    (timerWord r).extractLsb' 19 5 = 0#5 ∧ (timerWord r).getLsbD 24 = r.sat ∧
    (timerWord r).extractLsb' 25 7 = 0#7 := by
  have hsat := toNat_le_one r.sat
  have hword := timerWord_toNat r
  rw [Nat.mod_eq_of_lt hband, Nat.mod_eq_of_lt hcounter] at hword
  refine ⟨?counter, ?band, field_eq ?_, bit_eq ?sat, field_eq ?_⟩
  case counter | band =>
    rw [BitVec.extractLsb'_toNat, Nat.shiftRight_eq_div_pow, hword]
    omega
  case sat =>
    rw [hword]
    omega
  all_goals
    rw [hword, BitVec.toNat_ofNat]
    omega

theorem exec_tqResult (s : State) :
    exec .tqResult s = .next { s with resp := .rdata (timerWord (quantize s.tqTicks.toNat)) } := rfl

/-- Settles O49: TQ_TICKS is a plain register, and what `quantize` gives of it fits the fields of TQ_RESULT. -/
theorem quantizerOperations : Obligations.QuantizerOperations := by
  intro s w
  obtain ⟨hband, hcounter⟩ := quantize_fits s.tqTicks.toNat
  exact ⟨decode_of_exactRow (build := .tqSet) rfl rfl rfl, decode_of_constantRow rfl rfl rfl,
    decode_of_constantRow rfl rfl rfl, rfl, rfl, _, exec_tqResult s, timerWord_fields hband hcounter⟩

end Sys2Proof.Machine
end

section
/-!
PROOFS. The system operations (46_system.md R250 to R254): the control register, identity, parameters and the error
record.
-/

namespace Sys2Proof.Machine

/-! ## GLB_CTRL -/

/-- Without SOFT_RESET the error record is the only field that GLB_CTRL can change, and CLR_ERR says whether it does. -/
theorem exec_sysCtrl_of_noReset (clrErr : Bool) (s : State) :
    exec (.sysCtrl false clrErr) s =
      .next { s with glbErr := if clrErr then 0#32 else s.glbErr, resp := .ok } := by
  cases clrErr with
  | true => rfl
  | false => rfl

/-- Settles O23: the two bits of the data word, a soft reset with or without CLR_ERR, and the error record by itself. -/
theorem systemControl : Obligations.SystemControl := fun s _ clrErr =>
  ⟨decode_of_exactRow (build := fun w => .sysCtrl (ctrlBit w 0) (ctrlBit w 1)) rfl rfl rfl,
    exec_softReset clrErr s, exec_sysCtrl_of_noReset true s, exec_sysCtrl_of_noReset false s⟩

/-! ## The four reads -/

theorem exec_sysId (s : State) : exec .sysId s = .next (s.answer 0x43504752#32) := rfl

theorem exec_sysVersion (s : State) : exec .sysVersion s = .next (s.answer 0x00010000#32) := rfl

theorem exec_sysParam (s : State) : exec .sysParam s = .next (s.answer (paramWord Config.okCode)) := rfl

theorem exec_sysErr (s : State) : exec .sysErr s = .next (s.answer s.glbErr) := rfl

/-- The fields of the parameter word (R253) for any OK_CODE, from the number that the word stands for. -/
theorem paramWord_fields (ok : Byte) :
    (paramWord ok).extractLsb' 0 8 = 0xD5#8 ∧ (paramWord ok).extractLsb' 8 8 = ok ∧
    (paramWord ok).extractLsb' 16 3 = 4#3 ∧ (paramWord ok).extractLsb' 19 13 = 0#13 := by
  have hok := ok.isLt
  refine ⟨field_eq ?sentinel, field_eq ?okCode, field_eq ?four, field_eq ?above⟩
  case okCode =>
    rw [paramWord_toNat]
    omega
  all_goals
    rw [paramWord_toNat, BitVec.toNat_ofNat]
    omega

/-- Settles O24: each read is one answer, and the parameter word is taken apart field by field. -/
theorem systemReads : Obligations.SystemReads := fun s _ =>
  ⟨decode_of_constantRow rfl rfl rfl, decode_of_constantRow rfl rfl rfl, decode_of_constantRow rfl rfl rfl,
    decode_of_constantRow rfl rfl rfl, exec_sysId s, exec_sysVersion s, exec_sysErr s,
    _, exec_sysParam s, paramWord_fields Config.okCode⟩

end Sys2Proof.Machine
end

section
/-!
PROOFS. How an access ends in a bus error (60_exceptions.md R260, R263): what the record holds, which operations raise,
and that every access ends (R277).
-/

namespace Sys2Proof

/-- The access word of R80 holds the direction and the offset, and they can be read back. -/
theorem dir_eq_and_off_eq_of_word_eq {a b : Access} (h : a.word = b.word) : a.dir = b.dir ∧ a.off = b.off := by
  obtain ⟨dir, off, size, w⟩ := a
  obtain ⟨dir', off', size', w'⟩ := b
  have hlt : off.toNat < 4096 := off.isLt
  have hlt' : off'.toNat < 4096 := off'.isLt
  replace h := congrArg BitVec.toNat h
  cases dir <;> cases dir' <;> simp only [word_toNat_of_read, word_toNat_of_write] at h
  case read.write | write.read => omega
  case read.read => exact ⟨rfl, BitVec.eq_of_toNat_eq h⟩
  case write.write => exact ⟨rfl, BitVec.eq_of_toNat_eq (Nat.add_left_cancel h)⟩

/-- An access that decodes has the direction and the offset of its operation's own access. -/
theorem dir_eq_and_off_eq_of_decode {a : Access} {i : Instr} (h : decode a = .ok i) :
    (encode i).dir = a.dir ∧ (encode i).off = a.off := by
  obtain ⟨-, hword, -⟩ := decodedAccessReencodes a i h
  exact dir_eq_and_off_eq_of_word_eq hword

end Sys2Proof

namespace Sys2Proof.Machine

/-! ## The record -/

theorem causeCode_ne_zero (c : Cause) : causeCode c ≠ 0#4 := by
  cases c <;> decide

/-- A record names a cause, so it is not the empty record. -/
theorem errorRecord_ne_zero (dir : Dir) (off : Offset) (c : Cause) : errorRecord dir off c ≠ 0#32 := fun h => by
  have hcause := errorRecord_cause dir off c
  rw [h] at hcause
  exact causeCode_ne_zero c hcause.symm

/-- Settles O7: `raise` writes two fields, and the record is taken apart field by field. -/
theorem busErrorWritesTheRecord : Obligations.BusErrorWritesTheRecord := by
  intro s d off c
  refine ⟨rfl, (errorRecord_cause d off c).trans ?code, errorRecord_write d off c, errorRecord_low_zero d off c,
    errorRecord_offset d off c, errorRecord_high_zero d off c, ?data⟩
  case code => cases c <;> rfl
  case data =>
    rintro rfl
    rfl

/-! ## The operations that raise -/

/-- Everything FINALIZE can do. -/
theorem exec_encFinalize_cases (s : State) :
    exec .encFinalize s =
      .next ({ s with enc := { s.enc with seqErr := true } }.raise .write Off.encFinalize .sequence) ∨
    exec .encFinalize s = .next { s with enc := s.enc.finalize, resp := .ok } := by
  by_cases hopen : s.enc.state = .opened
  · exact .inr (exec_encFinalize_of_opened hopen)
  · exact .inl (exec_encFinalize_of_closed hopen)

/-- Everything RD.CODE can do. -/
theorem exec_rdCode_cases (s : State) :
    exec .rdCode s = .next (rdNotReady Off.rdCode s) ∨
    exec .rdCode s = .next { s with resp := .rdata (rdCodeWord Config.okCode (s.dec.body.read 0)) } := by
  by_cases hnone : s.dec.phase ≠ .complete ∨ s.dec.len = 0#8
  · exact .inl (exec_rdCode_of_no_body hnone)
  · obtain ⟨hphase, hlen⟩ := not_or.1 hnone
    exact .inr (exec_rdCode_of_body (not_not.1 hphase) hlen)

/-- Everything MV.NEXT can do. -/
theorem exec_mvNext_cases (s : State) :
    exec .mvNext s = .next ({ s with mv := { s.mv with seqErr := true } }.raise .write Off.mvNext .sequence) ∨
    exec .mvNext s = .next { s with mv := s.mv.advance, resp := .ok } := by
  by_cases hleft : s.mv.segLeft = 0#32
  · exact .inl (exec_mvNext_of_none hleft)
  · exact .inr (exec_mvNext_of_left hleft)

/-- The second state is the first with at most one sticky flag set, of the five that a raising rule can name
(41_encoder.md R124, R129; 43_reader.md R180, R184; 44_segmenter.md R204). -/
inductive SetsAtMostOneFlag (s : State) : State → Prop
  | nothing : SetsAtMostOneFlag s s
  | encSeqErr : SetsAtMostOneFlag s { s with enc := { s.enc with seqErr := true } }
  | encOverflow : SetsAtMostOneFlag s { s with enc := { s.enc with overflow := true } }
  | rdNotReady : SetsAtMostOneFlag s { s with rd := { s.rd with notReady := true } }
  | rdPastEnd : SetsAtMostOneFlag s { s with rd := { s.rd with pastEnd := true } }
  | mvSeqErr : SetsAtMostOneFlag s { s with mv := { s.mv with seqErr := true } }

/-- The access at an offset ends in a bus error: a flag may be set, then the error is raised. -/
def Raises (dir : Dir) (off : Offset) (s t : State) : Prop :=
  ∃ u c, SetsAtMostOneFlag s u ∧ t = u.raise dir off c

/-- The access ends with `ok` or `rdata`, and the error record stands. -/
def EndsWell (s t : State) : Prop := (∀ d c, t.resp ≠ .busError d c) ∧ t.glbErr = s.glbErr

theorem encAppend_raises_or_endsWell (off : Offset) (bytes : List Byte) (s : State) :
    Raises .write off s (encAppend off bytes s) ∨ EndsWell s (encAppend off bytes s) := by
  obtain ⟨-, heq⟩ | ⟨-, -, heq⟩ | ⟨-, -, heq⟩ := encAppend_cases off bytes s <;> rw [heq]
  · exact .inl ⟨_, _, .encSeqErr, rfl⟩
  · exact .inl ⟨_, _, .encOverflow, rfl⟩
  · exact .inr ⟨nofun, rfl⟩

theorem rdGet_raises_or_endsWell (off : Offset) (n : Nat) (s : State) :
    Raises .read off s (rdGet off n s) ∨ EndsWell s (rdGet off n s) := by
  obtain ⟨-, heq⟩ | ⟨-, -, heq⟩ | ⟨-, -, heq⟩ := rdGet_cases off n s <;> rw [heq]
  · exact .inl ⟨_, _, .rdNotReady, rfl⟩
  · exact .inl ⟨_, _, .rdPastEnd, rfl⟩
  · exact .inr ⟨nofun, rfl⟩

theorem decPushByte_glbErr (b : Byte) (s : State) : (decPushByte b s).glbErr = s.glbErr := by
  obtain ⟨d, heq, -⟩ | ⟨-, -, heq⟩ := decPushByte_cases b s <;> rw [heq]

/-- How an operation ends: its own access raises a bus error, or it ends well. Only GLB_CTRL writes the error record
without an error. -/
theorem exec_raises_or_endsWell {i : Instr} {s t : State} (h : exec i s = .next t)
    (hctrl : ∀ softReset clrErr, i ≠ .sysCtrl softReset clrErr) :
    Raises (encode i).dir (encode i).off s t ∨ EndsWell s t := by
  cases i
  case sysCtrl softReset clrErr => exact absurd rfl (hctrl softReset clrErr)
  case encAdd8 | encAdd16 | encAdd32 =>
    injection h with h; subst h
    exact encAppend_raises_or_endsWell _ _ s
  case encFinalize =>
    obtain heq | heq := exec_encFinalize_cases s <;> rw [heq] at h <;> injection h with h <;> subst h
    · exact .inl ⟨_, _, .encSeqErr, rfl⟩
    · exact .inr ⟨nofun, rfl⟩
  case decPush b =>
    injection h with h; subst h
    exact .inr ⟨nofun, decPushByte_glbErr b s⟩
  case rdCode =>
    obtain heq | heq := exec_rdCode_cases s <;> rw [heq] at h <;> injection h with h <;> subst h
    · exact .inl ⟨_, _, .rdNotReady, rfl⟩
    · exact .inr ⟨nofun, rfl⟩
  case rdGet8 | rdGet16 | rdGet32 =>
    injection h with h; subst h
    exact rdGet_raises_or_endsWell _ _ s
  case mvNext =>
    obtain heq | heq := exec_mvNext_cases s <;> rw [heq] at h <;> injection h with h <;> subst h
    · exact .inl ⟨_, _, .mvSeqErr, rfl⟩
    · exact .inr ⟨nofun, rfl⟩
  -- What is left ends with `ok` or `rdata` on every path.
  all_goals
    injection h with h
    subst h
    exact .inr ⟨nofun, rfl⟩

/-- An access that ends in a bus error raised it, in the generic checks or in its operation. -/
theorem performAccess_raises {a : Access} {s t : State} {d : Dir} {c : Cause} (h : performAccess a s = .next t)
    (hfail : t.resp = .busError d c) : Raises a.dir a.off s t := by
  match hd : decode a with
  | .error cause =>
    rw [performAccess_of_error hd, Host.Outcome.next.injEq] at h
    exact ⟨s, cause, .nothing, h.symm⟩
  | .ok i =>
    rw [performAccess_of_ok hd] at h
    by_cases hctrl : ∃ softReset clrErr, i = .sysCtrl softReset clrErr
    · obtain ⟨softReset, clrErr, rfl⟩ := hctrl
      injection h with h
      rw [← h] at hfail
      exact nomatch hfail
    · obtain ⟨hdir, hoff⟩ := dir_eq_and_off_eq_of_decode hd
      rw [← hdir, ← hoff]
      have hends := exec_raises_or_endsWell h fun _ _ hi => hctrl ⟨_, _, hi⟩
      exact hends.resolve_right fun ⟨hwell, _⟩ => hwell d c hfail

/-- Settles O8: the bus error was raised over the state before it, with at most one flag set. -/
theorem failedAccessChangesOnlyErrorState : Obligations.FailedAccessChangesOnlyErrorState := by
  intro a s t d c h hfail
  obtain ⟨u, cause, hflag, rfl⟩ := performAccess_raises h hfail
  obtain ⟨rfl, rfl⟩ := Response.busError.inj hfail
  refine ⟨rfl, rfl, ?_⟩
  cases hflag with
  | nothing => exact .inl rfl
  | encSeqErr => exact .inr (.inl rfl)
  | encOverflow => exact .inr (.inr (.inl rfl))
  | rdNotReady => exact .inr (.inr (.inr (.inl rfl)))
  | rdPastEnd => exact .inr (.inr (.inr (.inr (.inl rfl))))
  | mvSeqErr => exact .inr (.inr (.inr (.inr (.inr rfl))))

/-! ## Every access ends -/

theorem exec_completes (i : Instr) (s : State) : ∃ t, exec i s = .next t := by
  cases i
  case encFinalize => exact (exec_encFinalize_cases s).elim (fun h => ⟨_, h⟩) (fun h => ⟨_, h⟩)
  case rdCode => exact (exec_rdCode_cases s).elim (fun h => ⟨_, h⟩) (fun h => ⟨_, h⟩)
  case mvNext => exact (exec_mvNext_cases s).elim (fun h => ⟨_, h⟩) (fun h => ⟨_, h⟩)
  -- The meaning of every other operation is one `next`.
  all_goals exact ⟨_, rfl⟩

theorem performAccess_completes (a : Access) (s : State) : ∃ t, performAccess a s = .next t := by
  match hd : decode a with
  | .error _ => exact ⟨_, performAccess_of_error hd s⟩
  | .ok i =>
    rw [performAccess_of_ok hd]
    exact exec_completes i s

theorem step_completes (s : State) : ∃ t, step s = .next t := by
  match hp : s.pending with
  | [] => exact ⟨_, step_of_nil hp⟩
  | .powerOn :: _ => exact ⟨_, step_of_powerOn hp⟩
  | .access a :: rest =>
    rw [step_of_access hp]
    exact performAccess_completes a _

/-- Settles O15: each meaning answers a next state on every path, and a step performs at most one. -/
theorem everyStepCompletes : Obligations.EveryStepCompletes := ⟨exec_completes, step_completes⟩

end Sys2Proof.Machine
end

section
/-!
PROOFS. The reset state (70_reset_and_hazards.md R290): its values, and that it meets the invariant of the block.
-/

namespace Sys2Proof.Machine

/-- Settles O20: each unit's reset state meets the unit's invariant. -/
theorem resetMeetsTheInvariant : Obligations.ResetMeetsTheInvariant := State.reset_inv

theorem Encoder.reset_buf_read (i : Nat) : Encoder.reset.buf.read i = 0#8 := Memory.read_nil i

theorem Decoder.reset_body_read (i : Nat) : Decoder.reset.body.read i = 0#8 := Memory.read_nil i

/-- The status words of R290's table, views of the reset fields. -/
theorem reset_statusWords :
    encStatusWord Encoder.reset = 0#32 ∧ decStatusWord Decoder.reset = 0#32 ∧ decErrinfoWord Decoder.reset = 0#32 ∧
    rdStatusWord Decoder.reset Reader.reset = 0#32 ∧ timerWord (quantize 0) = 0#32 ∧
    mvStatusWord Planner.reset = 0#32 := by
  decide

theorem performEvent_powerOn (s : State) :
    performEvent .powerOn s = .next { State.reset with pending := s.pending } := rfl

/-- Settles O22, row by row of the table: the fields, the two buffers, the status words, the constants. -/
theorem powerOnValues : Obligations.PowerOnValues := by
  obtain ⟨hencStatus, hdecStatus, hdecErrinfo, hrdStatus, htqResult, hmvStatus⟩ := reset_statusWords
  refine ⟨State.reset_glbErr, State.reset_crcAcc,
    rfl, Encoder.reset_buf_read, rfl, rfl, rfl, rfl, hencStatus, rfl,
    rfl, rfl, rfl, rfl, Decoder.reset_body_read, rfl, rfl, rfl, rfl, hdecStatus, hdecErrinfo,
    State.reset_rd, hrdStatus,
    State.reset_tqTicks, htqResult,
    rfl, rfl, hmvStatus, rfl, rfl, rfl, rfl, rfl, rfl, rfl, rfl, rfl, rfl,
    exec_sysId State.reset, exec_sysVersion State.reset, exec_sysParam State.reset, exec_mvK State.reset,
    performEvent_powerOn⟩

end Sys2Proof.Machine
end

section
/-!
PROOFS. The bits of a write that are no field of its register (30_encoding.md R82, 60_exceptions.md R262).
-/

namespace Sys2Proof

/-- The bits of the data word that are fields of the register at an offset (R83). -/
def writeFields (off : Offset) : Word :=
  if off.toNat ∈ [0x008, 0x03C, 0x040, 0x060, 0x0A4] then 0x00000003#32
  else if off.toNat = 0x010 then 0x00000001#32
  else if off.toNat ∈ [0x014, 0x024, 0x044] then 0x000000FF#32
  else if off.toNat ∈ [0x020, 0x028] then 0x0000FFFF#32
  else if off.toNat ∈ [0x030, 0x0D0] then 0x00000000#32
  else 0xFFFFFFFF#32

theorem ctrlBit_and {fields : Word} {i : Nat} (w : Word) (h : ctrlBit fields i = true) :
    ctrlBit (w &&& fields) i = ctrlBit w i := by
  rw [ctrlBit] at h
  rw [ctrlBit, ctrlBit, BitVec.getLsbD_and, h, Bool.and_true]

theorem field_and {fields : Word} {lo n : Nat} (w : Word) (h : field fields lo n = BitVec.allOnes n) :
    field (w &&& fields) lo n = field w lo n := by
  rw [field] at h
  rw [field, field, BitVec.extractLsb'_and, h, BitVec.and_allOnes]

/-- The row of a register cuts its operands from the register's fields. -/
theorem build_and_writeFields {r : Row} (hr : r ∈ opTable) (off : Offset) (w : Word) :
    r.build off (w &&& writeFields (r.pattern.setWidth 12)) = r.build off w := by
  have hrow := getElem?_ctorIdx_build hr off w
  cases hi : r.build off w
  all_goals
    rw [hi] at hrow
    injection hrow with hrow
    subst hrow
    rw [← hi]
  case sysCtrl | encCtrl | decCtrl | rdCtrl | mvCtrl =>
    dsimp only [exactRow]
    exact congrArg₂ _ (ctrlBit_and w rfl) (ctrlBit_and w rfl)
  case crcCtrl =>
    dsimp only [exactRow]
    exact congrArg _ (ctrlBit_and w rfl)
  case encBegin =>
    dsimp only [exactRow]
    exact congrArg₂ _ (field_and w rfl) (field_and w rfl)
  case crcUpdate | encAdd8 | encAdd16 | decPush =>
    dsimp only [exactRow]
    exact congrArg _ (field_and w rfl)
  case encAdd32 | tqSet | mvSetdx | mvSetdy | mvSetdz | mvSetfeed =>
    dsimp only [exactRow]
    exact congrArg _ BitVec.and_allOnes
  -- What is left is a read, or a write that ignores its data word.
  all_goals rfl

/-- The data word is looked at by the row that takes the access, and by nothing else. -/
theorem decode_wdata_congr {dir : Dir} {off : Offset} {size : Nat} {w w' : Word}
    (h : ∀ r ∈ opTable, r.accepts (Access.mk dir off size w).word = true → r.build off w = r.build off w') :
    decode ⟨dir, off, size, w⟩ = decode ⟨dir, off, size, w'⟩ := by
  by_cases hsize : size = 4
  case neg => rw [decode_of_size hsize, decode_of_size hsize]
  by_cases haligned : off.toNat % 4 = 0
  case neg => rw [decode_of_misaligned hsize haligned, decode_of_misaligned hsize haligned]
  by_cases hrow : ∃ r ∈ opTable, r.accepts (Access.mk dir off size w).word = true
  case neg =>
    exact (decode_of_no_row hsize haligned hrow).trans
      (decode_of_no_row (a := ⟨dir, off, size, w'⟩) hsize haligned hrow).symm
  obtain ⟨r, hr, hacc⟩ := hrow
  calc decode ⟨dir, off, size, w⟩
    _ = .ok (r.build off w) := decode_of_row hsize haligned hr hacc
    _ = .ok (r.build off w') := by rw [h r hr hacc]
    _ = decode ⟨dir, off, size, w'⟩ := (decode_of_row (a := ⟨dir, off, size, w'⟩) hsize haligned hr hacc).symm

/-- A row of a single register takes a write at its own offset only. -/
theorem off_eq_of_accepts_write {r : Row} {off : Offset} {size : Nat} {w : Word} (hmask : r.mask = 0x1FFF#13)
    (hacc : r.accepts (Access.mk .write off size w).word = true) : off = r.pattern.setWidth 12 := by
  have hlt : off.toNat < 4096 := off.isLt
  rw [accepts_of_exactMask hmask, word_toNat_of_write] at hacc
  refine BitVec.eq_of_toNat_eq ?_
  rw [BitVec.toNat_setWidth, hacc]
  omega

/-- Settles O9: only a row looks at the data word, and a row looks at its register's fields only. -/
theorem reservedWriteBitsIgnored : Obligations.ReservedWriteBitsIgnored := by
  intro off size w
  show decode ⟨.write, off, size, w &&& writeFields off⟩ = _
  refine decode_wdata_congr fun r hr hacc => ?_
  obtain hmask | rfl | rfl := row_cases hr
  · rw [off_eq_of_accepts_write hmask hacc]
    exact build_and_writeFields hr _ w
  -- The rows of the two windows ignore the data word.
  · rfl
  · rfl

end Sys2Proof
end

section
/-!
PROOFS. The bits of a read that are no field of its register (60_exceptions.md R262; 10_state.md R19 to R56).
-/

namespace Sys2Proof.Machine

/-! ## Reserved bits -/

/-- The mask of a reserved field: bits `lo` to `lo + n - 1`. -/
def reservedBits (lo n : Nat) : Word := (BitVec.allOnes n).setWidth 32 <<< lo

/-- A word whose reserved field is 0 has no bit in common with the field's mask. -/
theorem and_reservedBits {v : Word} {lo n : Nat} (h : v.extractLsb' lo n = 0#n) : v &&& reservedBits lo n = 0#32 := by
  refine BitVec.eq_of_getLsbD_eq fun i hi => ?_
  rw [BitVec.getLsbD_and, BitVec.getLsbD_zero, Bool.and_eq_false_iff]
  by_cases hfield : lo ≤ i ∧ i - lo < n
  · obtain ⟨hlo, hhi⟩ := hfield
    have hbit := congrArg (BitVec.getLsbD · (i - lo)) h
    simp only [BitVec.getLsbD_extractLsb', hhi, Nat.add_sub_cancel' hlo, decide_true, Bool.true_and,
      BitVec.getLsbD_zero] at hbit
    exact .inl hbit
  · refine .inr ?_
    rw [reservedBits, BitVec.getLsbD_shiftLeft, BitVec.getLsbD_setWidth, BitVec.getLsbD_allOnes]
    simp only [Bool.and_eq_false_iff, Bool.not_eq_false', decide_eq_true_eq, decide_eq_false_iff_not]
    omega

theorem and_reservedBits_or {v : Word} {lo n lo' n' : Nat} (h : v.extractLsb' lo n = 0#n)
    (h' : v.extractLsb' lo' n' = 0#n') : v &&& (reservedBits lo n ||| reservedBits lo' n') = 0#32 := by
  rw [BitVec.and_or_distrib_left, and_reservedBits h, and_reservedBits h', BitVec.or_zero]

theorem and_not_allOnes (v : Word) : v &&& ~~~0xFFFFFFFF#32 = 0#32 := BitVec.and_zero

/-- A small number has nothing above its bits. -/
theorem extract_above_eq_zero {v : Word} {lo n : Nat} (h : v.toNat < 2 ^ lo) : v.extractLsb' lo n = 0#n := by
  refine field_eq ?_
  rw [Nat.div_eq_of_lt h, Nat.zero_mod]
  exact (Nat.zero_mod _).symm

theorem extract_bit_eq_zero {v : Word} {i : Nat} (h : v.getLsbD i = false) : v.extractLsb' i 1 = 0#1 := by
  refine BitVec.eq_of_getLsbD_eq fun j hj => ?_
  obtain rfl : j = 0 := by omega
  simpa using h

/-! ## What the reads return -/

theorem rdata_of_answer {s t : State} {v w : Word}
    (hexec : (Host.Outcome.next (s.answer w) : Host.Outcome State Fault Refusal) = .next t)
    (hresp : t.resp = .rdata v) : v = w := by
  injection hexec with hexec
  subst hexec
  exact (Response.rdata.inj hresp).symm

theorem encFrameLen_le (e : Encoder) : encFrameLen e ≤ 258 := by
  have hlen := e.len.isLt
  unfold encFrameLen
  split <;> omega

/-- RD.CODE returns a code word, when it returns a word. -/
theorem rdata_of_rdCode {s t : State} {v : Word} (hexec : exec .rdCode s = .next t) (hresp : t.resp = .rdata v) :
    v = rdCodeWord Config.okCode (s.dec.body.read 0) := by
  obtain heq | heq := exec_rdCode_cases s <;> rw [heq] at hexec
  · injection hexec with hexec; subst hexec
    exact nomatch hresp
  · exact rdata_of_answer hexec hresp

/-- A get of `n` bytes returns a number of `n` bytes, when it returns a word. -/
theorem rdata_of_rdGet_lt {off : Offset} {n : Nat} {s : State} {v : Word} (hn : n ≤ 4)
    (hresp : (rdGet off n s).resp = .rdata v) : v.toNat < 256 ^ n := by
  obtain ⟨-, heq⟩ | ⟨-, -, heq⟩ | ⟨-, -, heq⟩ := rdGet_cases off n s <;> rw [heq] at hresp
  · exact nomatch hresp
  · exact nomatch hresp
  · have hlt := leValue_lt (s.dec.body.slice s.rd.cursor.toNat n)
    have hlength := s.dec.body.slice_length s.rd.cursor.toNat n
    rw [← Response.rdata.inj hresp, toNat_ofNat_leValue (hlength.trans_le hn)]
    rwa [hlength] at hlt

/-- TQ_RESULT and MV_TIMER have one layout (10_state.md R51, R56), with reserved bits 19 to 23 and 25 to 31. -/
theorem timerWord_and_reserved (t : Nat) :
    timerWord (quantize t) &&& (reservedBits 19 5 ||| reservedBits 25 7) = 0#32 := by
  obtain ⟨hband, hcounter⟩ := quantize_fits t
  obtain ⟨-, -, hmid, -, hhigh⟩ := timerWord_fields hband hcounter
  exact and_reservedBits_or hmid hhigh

/-- Settles O10, register by register: the fields of each word that are always 0. -/
theorem reservedReadBitsAreZero : Obligations.ReservedReadBitsAreZero := by
  intro i s t v hinv hexec hresp
  obtain ⟨⟨herrLow, herrHigh, -⟩, -, -, -, ⟨-, -, htimer, -⟩, -⟩ := hinv
  cases i
  case sysParam =>
    obtain rfl := rdata_of_answer hexec hresp
    obtain ⟨-, -, -, habove⟩ := paramWord_fields Config.okCode
    exact and_reservedBits habove
  case sysErr =>
    obtain rfl := rdata_of_answer hexec hresp
    exact and_reservedBits_or herrLow herrHigh
  case crcValue =>
    obtain rfl := rdata_of_answer hexec hresp
    have hcrc := s.crcAcc.isLt
    exact and_reservedBits (lo := 8) (n := 24) (extract_above_eq_zero (by rw [BitVec.toNat_setWidth]; omega))
  case encStatus =>
    obtain rfl := rdata_of_answer hexec hresp
    obtain ⟨-, -, -, hmid, -, -, hhigh⟩ := encStatusWord_fields s.enc
    exact and_reservedBits_or hmid hhigh
  case encFramelen =>
    obtain rfl := rdata_of_answer hexec hresp
    have hlen := encFrameLen_le s.enc
    exact and_reservedBits (lo := 9) (n := 23) (extract_above_eq_zero (by rw [toNat_encFrameLen]; omega))
  case decStatus =>
    obtain rfl := rdata_of_answer hexec hresp
    obtain ⟨-, hbit, -, hmid, -⟩ := decStatusWord_fields s.dec
    exact and_reservedBits_or (extract_bit_eq_zero hbit) hmid
  case rdCode =>
    obtain rfl := rdata_of_rdCode hexec hresp
    obtain ⟨-, -, hhigh⟩ := rdCodeWord_fields Config.okCode (s.dec.body.read 0)
    exact and_reservedBits hhigh
  case rdGet8 =>
    injection hexec with hexec; subst hexec
    exact and_reservedBits (lo := 8) (n := 24) (extract_above_eq_zero (rdata_of_rdGet_lt (n := 1) (by decide) hresp))
  case rdGet16 =>
    injection hexec with hexec; subst hexec
    exact and_reservedBits (lo := 16) (n := 16) (extract_above_eq_zero (rdata_of_rdGet_lt (n := 2) (by decide) hresp))
  case rdStatus =>
    obtain rfl := rdata_of_answer hexec hresp
    obtain ⟨-, -, -, -, -, hhigh⟩ := rdStatusWord_fields s.dec s.rd
    exact and_reservedBits hhigh
  case tqResult =>
    obtain rfl := rdata_of_answer hexec hresp
    exact timerWord_and_reserved s.tqTicks.toNat
  case mvStatus =>
    obtain rfl := rdata_of_answer hexec hresp
    obtain ⟨-, -, -, -, -, -, hhigh⟩ := mvStatusWord_fields s.mv
    exact and_reservedBits hhigh
  case mvTimer =>
    obtain rfl := rdata_of_answer hexec hresp
    rw [htimer]
    exact timerWord_and_reserved s.mv.ticks.toNat
  -- What is left returns a word whose 32 bits are all of them fields, or is a write.
  all_goals exact and_not_allOnes v

end Sys2Proof.Machine
end

section
/-!
PROOFS. What clears a sticky flag, the mismatch count and the error record (60_exceptions.md R264): the CLR_ERR bit of
the unit's own control register, and a reset.
-/

namespace Sys2Proof.Machine

/-! ## The flags of each unit -/

/-- No sticky flag of the encoder is cleared. -/
def Encoder.FlagsStay (e e' : Encoder) : Prop :=
  (e.overflow = true → e'.overflow = true) ∧ (e.seqErr = true → e'.seqErr = true)

/-- The decoder's sticky flag is not cleared, and the mismatch count does not fall. -/
def Decoder.RecordStays (d d' : Decoder) : Prop :=
  (d.crcErr = true → d'.crcErr = true) ∧ d.mismatchCnt.toNat ≤ d'.mismatchCnt.toNat

/-- No sticky flag of the reader is cleared. -/
def Reader.FlagsStay (r r' : Reader) : Prop :=
  (r.notReady = true → r'.notReady = true) ∧ (r.pastEnd = true → r'.pastEnd = true)

/-- No sticky flag of the planner is cleared. -/
def Planner.FlagsStay (p p' : Planner) : Prop :=
  (p.feedZero = true → p'.feedZero = true) ∧ (p.seqErr = true → p'.seqErr = true)

/-! ## The encoder -/

theorem encAppend_flagsStay (off : Offset) (bytes : List Byte) (s : State) :
    s.enc.FlagsStay (encAppend off bytes s).enc := by
  obtain ⟨-, heq⟩ | ⟨-, -, heq⟩ | ⟨-, -, heq⟩ := encAppend_cases off bytes s <;> rw [heq]
  · exact ⟨id, fun _ => rfl⟩
  · exact ⟨fun _ => rfl, id⟩
  · obtain ⟨-, hoverflow, hseq, -⟩ := Encoder.pushAll_fields bytes s.enc
    exact ⟨hoverflow.trans, hseq.trans⟩

theorem exec_enc_flagsStay {i : Instr} {s t : State} (hexec : exec i s = .next t)
    (hreset : ∀ clrErr, i ≠ .sysCtrl true clrErr) (hclr : ∀ abort, i ≠ .encCtrl true abort) :
    s.enc.FlagsStay t.enc := by
  by_cases hunit : unitOf i = .encoder
  case neg =>
    rw [(exec_changesOnly hexec hreset).enc_eq hunit]
    exact ⟨id, id⟩
  cases i
  case encAdd8 | encAdd16 | encAdd32 =>
    injection hexec with hexec; subst hexec
    exact encAppend_flagsStay _ _ s
  case encFinalize =>
    obtain heq | heq := exec_encFinalize_cases s <;> rw [heq] at hexec <;> injection hexec with hexec <;> subst hexec
    · exact ⟨id, fun _ => rfl⟩
    · exact ⟨id, id⟩
  case encCtrl clrErr abort =>
    obtain rfl : clrErr = false := Bool.eq_false_of_not_eq_true fun h => hclr abort (h ▸ rfl)
    injection hexec with hexec; subst hexec
    cases abort <;> exact ⟨id, id⟩
  case encBegin | encStatus | encFramelen | encFrame =>
    injection hexec with hexec; subst hexec
    exact ⟨id, id⟩
  -- What is left is of another unit.
  all_goals cases hunit

/-! ## The decoder -/

theorem Decoder.stepSentinel_recordStays (d : Decoder) (b : Byte) : d.RecordStays (d.stepSentinel b) := by
  unfold stepSentinel
  split <;> exact ⟨id, le_rfl⟩

/-- A mismatch sets the flag and counts up, or leaves the count at its last value. -/
theorem Decoder.mismatch_recordStays (d : Decoder) (b : Byte) : d.RecordStays (d.mismatch b) := by
  have hlt := d.mismatchCnt.isLt
  rw [mismatch_eq]
  refine ⟨fun _ => rfl, ?_⟩
  rw [BitVec.toNat_ofNat]
  omega

theorem decPushByte_recordStays (b : Byte) (s : State) : s.dec.RecordStays (decPushByte b s).dec := by
  cases hphase : s.dec.phase with
  | awaitSentinel =>
    rw [decPushByte_of_awaitSentinel b hphase]
    exact s.dec.stepSentinel_recordStays b
  | awaitLength =>
    rw [decPushByte_of_awaitLength b hphase]
    exact ⟨id, le_rfl⟩
  | awaitPayload =>
    rw [decPushByte_of_awaitPayload b hphase]
    exact ⟨id, le_rfl⟩
  | awaitCrc =>
    by_cases hb : b = s.dec.crc
    · rw [decPushByte_of_match hphase hb]
      exact ⟨id, le_rfl⟩
    · rw [decPushByte_of_mismatch hphase hb]
      exact s.dec.mismatch_recordStays b
  | complete =>
    rw [decPushByte_of_complete b hphase]
    exact s.dec.restart.stepSentinel_recordStays b

theorem exec_dec_recordStays {i : Instr} {s t : State} (hexec : exec i s = .next t)
    (hreset : ∀ clrErr, i ≠ .sysCtrl true clrErr) (hclr : ∀ reset, i ≠ .decCtrl reset true) :
    s.dec.RecordStays t.dec := by
  by_cases hunit : unitOf i = .decoder
  case neg =>
    rw [(exec_changesOnly hexec hreset).dec_eq hunit]
    exact ⟨id, le_rfl⟩
  cases i
  case decPush b =>
    injection hexec with hexec; subst hexec
    exact decPushByte_recordStays b s
  case decCtrl reset clrErr =>
    obtain rfl : clrErr = false := Bool.eq_false_of_not_eq_true fun h => hclr reset (h ▸ rfl)
    injection hexec with hexec; subst hexec
    cases reset <;> exact ⟨id, le_rfl⟩
  case decStatus | decErrinfo | decBody =>
    injection hexec with hexec; subst hexec
    exact ⟨id, le_rfl⟩
  -- What is left is of another unit.
  all_goals cases hunit

/-! ## The reader -/

theorem rdGet_flagsStay (off : Offset) (n : Nat) (s : State) : s.rd.FlagsStay (rdGet off n s).rd := by
  obtain ⟨-, heq⟩ | ⟨-, -, heq⟩ | ⟨-, -, heq⟩ := rdGet_cases off n s <;> rw [heq]
  · exact ⟨fun _ => rfl, id⟩
  · exact ⟨id, fun _ => rfl⟩
  · exact ⟨id, id⟩

theorem exec_rd_flagsStay {i : Instr} {s t : State} (hexec : exec i s = .next t)
    (hreset : ∀ clrErr, i ≠ .sysCtrl true clrErr) (hclr : ∀ rewind, i ≠ .rdCtrl rewind true) :
    s.rd.FlagsStay t.rd := by
  by_cases hunit : unitOf i = .reader
  case neg =>
    -- A push that completes a frame sets the cursor, and no flag.
    rw [(exec_changesOnly hexec hreset).rd_eq hunit]
    split <;> exact ⟨id, id⟩
  cases i
  case rdGet8 | rdGet16 | rdGet32 =>
    injection hexec with hexec; subst hexec
    exact rdGet_flagsStay _ _ s
  case rdCode =>
    obtain heq | heq := exec_rdCode_cases s <;> rw [heq] at hexec <;> injection hexec with hexec <;> subst hexec
    · exact ⟨fun _ => rfl, id⟩
    · exact ⟨id, id⟩
  case rdCtrl rewind clrErr =>
    obtain rfl : clrErr = false := Bool.eq_false_of_not_eq_true fun h => hclr rewind (h ▸ rfl)
    injection hexec with hexec; subst hexec
    cases rewind <;> exact ⟨id, id⟩
  case rdStatus =>
    injection hexec with hexec; subst hexec
    exact ⟨id, id⟩
  -- What is left is of another unit.
  all_goals cases hunit

/-! ## The planner -/

/-- A PLAN clears the plan and no sticky flag; a refused one sets FEED_ZERO (R202). -/
theorem Planner.plan_flagsStay (k : Nat) (p : Planner) : p.FlagsStay (p.plan k) := by
  by_cases hmove : masterSteps p.magnitude = 0
  · rw [plan_of_zeroMove k hmove]
    exact ⟨id, id⟩
  · by_cases hfeed : p.feed.toNat = 0
    · rw [plan_of_feedZero k hmove hfeed]
      exact ⟨fun _ => rfl, id⟩
    · rw [plan_of_move k hmove hfeed]
      exact ⟨id, id⟩

theorem exec_mv_flagsStay {i : Instr} {s t : State} (hexec : exec i s = .next t)
    (hreset : ∀ clrErr, i ≠ .sysCtrl true clrErr) (hclr : ∀ plan, i ≠ .mvCtrl plan true) :
    s.mv.FlagsStay t.mv := by
  by_cases hunit : unitOf i = .planner
  case neg =>
    rw [(exec_changesOnly hexec hreset).mv_eq hunit]
    exact ⟨id, id⟩
  cases i
  case mvCtrl plan clrErr =>
    obtain rfl : clrErr = false := Bool.eq_false_of_not_eq_true fun h => hclr plan (h ▸ rfl)
    injection hexec with hexec; subst hexec
    cases plan with
    | true => exact Planner.plan_flagsStay Config.clock s.mv
    | false => exact ⟨id, id⟩
  case mvNext =>
    obtain heq | heq := exec_mvNext_cases s <;> rw [heq] at hexec <;> injection hexec with hexec <;> subst hexec
    · exact ⟨id, fun _ => rfl⟩
    · exact ⟨id, id⟩
  case mvSetdx | mvSetdy | mvSetdz | mvSetfeed | mvGetdx | mvGetdy | mvGetdz | mvGetfeed | mvK | mvStatus | mvTicks |
      mvTimer | mvNseg | mvSegleft | mvSegdx | mvSegdy | mvSegdz | mvSegindex | mvMaster =>
    injection hexec with hexec; subst hexec
    exact ⟨id, id⟩
  -- What is left is of another unit.
  all_goals cases hunit

/-! ## The error record -/

/-- Outside GLB_CTRL the record stands, or a bus error overwrites it with a record that is not 0. -/
theorem exec_glbErr_ne_zero {i : Instr} {s t : State} (hexec : exec i s = .next t)
    (hreset : ∀ clrErr, i ≠ .sysCtrl true clrErr) (hclr : i ≠ .sysCtrl false true) (hne : s.glbErr ≠ 0#32) :
    t.glbErr ≠ 0#32 := by
  by_cases hctrl : ∃ softReset clrErr, i = .sysCtrl softReset clrErr
  · obtain ⟨softReset, clrErr, rfl⟩ := hctrl
    obtain rfl : softReset = false := Bool.eq_false_of_not_eq_true fun h => hreset clrErr (h ▸ rfl)
    obtain rfl : clrErr = false := Bool.eq_false_of_not_eq_true fun h => hclr (h ▸ rfl)
    rw [exec_sysCtrl_of_noReset] at hexec
    injection hexec with hexec; subst hexec
    exact hne
  · obtain ⟨u, c, -, rfl⟩ | ⟨-, hstands⟩ := exec_raises_or_endsWell hexec fun _ _ hi => hctrl ⟨_, _, hi⟩
    · exact errorRecord_ne_zero _ _ c
    · rwa [hstands]

/-- Settles O18, unit by unit. -/
theorem stickyFlagsStay : Obligations.StickyFlagsStay := fun _ _ _ hexec hreset =>
  ⟨exec_enc_flagsStay hexec hreset, exec_dec_recordStays hexec hreset, exec_rd_flagsStay hexec hreset,
    exec_mv_flagsStay hexec hreset, exec_glbErr_ne_zero hexec hreset⟩

end Sys2Proof.Machine
end
